-- ==== Sys2Proof/Word.lean ====
section
/-! DEFINITION. Bytes, command words, the wire markers (R12), and the names the decoder works with: the field
phases (R34) and the contexts in which a wire byte is classified (R87). -/

namespace Sys2Proof

/-- Every data value on every port is 8 bits (R13). -/
abbrev Byte := BitVec 8

/-- A command word: `op[23:16] a[15:8] b[7:0]` (R79). -/
abbrev CmdWord := BitVec 24

/-- The frame start marker (R12, R70). -/
abbrev FEND : Byte := 0xC0

/-- The first byte of an escape pair (R12, R70). -/
abbrev FESC : Byte := 0xDB

/-- The second byte of the pair that stands for `FEND` (R12, R74). -/
abbrev TFEND : Byte := 0xDC

/-- The second byte of the pair that stands for `FESC` (R12, R74). -/
abbrev TFESC : Byte := 0xDD

/-- Bit 7 of an address byte (R12, R72). -/
abbrev ADDR_FLAG : Byte := 0x80

/-- The phases of the decoder after synchronization (R34, values 2 to 6): the "field phases". -/
inductive FieldPhase where
  | addrOrCmd
  | cmd
  | len
  | data
  | crc
deriving DecidableEq, Repr

/-- The contexts of R87: a raw byte in `SYNC`, a raw byte in a field phase with `D_ESC = 0`, a raw byte in a
field phase with `D_ESC = 1`, and a logical byte in one of the field phases. -/
inductive WireContext where
  | sync
  | field
  | escaped
  | logical (p : FieldPhase)
deriving DecidableEq, Repr

end Sys2Proof
end

