-- ==== Sys2Proof/Syntax.lean ====
section
/-! DEFINITION. The instructions: one constructor for each row of spec/opcode_table.json. The first 19 are the
commands of the command port (rows of format CMD24, R81), the other 16 the classes of a byte the decoder takes
(rows of format WIRE8, R87). An operand the row fixes is no argument. -/

namespace Sys2Proof

inductive Instr where
  /-- `NOP` (R220). -/
  | nop
  /-- `CRC_INIT seed` (R105). -/
  | crcInit (seed : Byte)
  /-- `CRC_UPDATE byte` (R106). -/
  | crcUpdate (byte : Byte)
  /-- `CRC_READ` (R107). -/
  | crcRead
  /-- `PKT_SET_ADDR addr` (R120). -/
  | pktSetAddr (addr : Byte)
  /-- `PKT_SET_CMD cmd` (R121). -/
  | pktSetCmd (cmd : Byte)
  /-- `PKT_SET_LEN n` (R122). -/
  | pktSetLen (n : Byte)
  /-- `PKT_WRITE index, data` (R123). -/
  | pktWrite (index data : Byte)
  /-- `PKT_GET_ADDR` (R124). -/
  | pktGetAddr
  /-- `PKT_GET_CMD` (R125). -/
  | pktGetCmd
  /-- `PKT_GET_LEN` (R126). -/
  | pktGetLen
  /-- `PKT_READ index` (R127). -/
  | pktRead (index : Byte)
  /-- `ENC_START` (R143). -/
  | encStart
  /-- `DEC_START` (R170). -/
  | decStart
  /-- `STATUS_READ` (R221). -/
  | statusRead
  /-- `ENC_OUTCOME_READ` (R222). -/
  | encOutcomeRead
  /-- `DEC_OUTCOME_READ` (R223). -/
  | decOutcomeRead
  /-- `TX_CRC_READ` (R224). -/
  | txCrcRead
  /-- `RX_CRC_READ` (R225). -/
  | rxCrcRead
  /-- `SYNC_FEND`: the start marker (R175). -/
  | syncFend
  /-- `SYNC_OTHER`: any other raw byte in `SYNC` (R175). -/
  | syncOther (r : Byte)
  /-- `FIELD_FESC`: the raw byte that starts an escape pair (R177). -/
  | fieldFesc
  /-- `FIELD_RAW_FEND`: a raw marker inside a frame (R178). -/
  | fieldRawFend
  /-- `FIELD_LITERAL`: a raw byte that is a logical byte (R171, R179). -/
  | fieldLiteral (r : Byte)
  /-- `ESC_TFEND`: the escaped `FEND` (R176). -/
  | escTfend
  /-- `ESC_TFESC`: the escaped `FESC` (R176). -/
  | escTfesc
  /-- `ESC_BAD`: any other byte after `FESC` (R176). -/
  | escBad (r : Byte)
  /-- `LOG_ADDR_BYTE`: a logical byte in `ADDR_OR_CMD` with bit 7 set (R180). -/
  | logAddrByte (v : Byte)
  /-- `LOG_BCAST_CMD`: a logical byte in `ADDR_OR_CMD` with bit 7 clear (R180). -/
  | logBcastCmd (v : Byte)
  /-- `LOG_CMD`: a logical byte in `CMD` with bit 7 clear (R181). -/
  | logCmd (v : Byte)
  /-- `LOG_CMD_ADDRERR`: a logical byte in `CMD` with bit 7 set (R181). -/
  | logCmdAddrErr (v : Byte)
  /-- `LOG_LEN`: a logical byte in `LEN`, at most `P_MAX_LEN` (R182). -/
  | logLen (v : Byte)
  /-- `LOG_LEN_ERR`: a logical byte in `LEN` above `P_MAX_LEN` (R182). -/
  | logLenErr (v : Byte)
  /-- `LOG_DATA`: a logical byte in `DATA` (R183). -/
  | logData (v : Byte)
  /-- `LOG_CRC`: a logical byte in `CRC` (R184). -/
  | logCrc (v : Byte)
deriving DecidableEq, Repr

end Sys2Proof
end

