-- ==== Sys2Proof/WellFormed.lean ====
section
/-! DEFINITION. When an instruction is well formed: the byte a wire class carries is one of the bytes its row of
R87 admits. A command carries only operands the command word has room for, every value of which is an encoding
(an operand out of range is answered `CR_RANGE` when it runs, R83), so commands are always well formed. -/

namespace Sys2Proof

/-- `maxLen` is `P_MAX_LEN`, which tells the two classes of a length byte apart (R182). -/
def Instr.wellFormed (maxLen : Nat) : Instr → Bool
  | .syncOther r => r != FEND
  | .fieldLiteral r => r != FESC && r != FEND
  | .escBad r => r != TFEND && r != TFESC
  | .logAddrByte v => v.getLsbD 7
  | .logBcastCmd v => !v.getLsbD 7
  | .logCmd v => !v.getLsbD 7
  | .logCmdAddrErr v => v.getLsbD 7
  | .logLen v => decide (v.toNat ≤ maxLen)
  | .logLenErr v => decide (maxLen < v.toNat)
  | .nop | .crcInit _ | .crcUpdate _ | .crcRead | .pktSetAddr _ | .pktSetCmd _ | .pktSetLen _ | .pktWrite _ _
  | .pktGetAddr | .pktGetCmd | .pktGetLen | .pktRead _ | .encStart | .decStart | .statusRead
  | .encOutcomeRead | .decOutcomeRead | .txCrcRead | .rxCrcRead => true
  | .syncFend | .fieldFesc | .fieldRawFend | .escTfend | .escTfesc | .logData _ | .logCrc _ => true

end Sys2Proof
end

