-- ==== Sys2Proof/Decode.lean ====
section
/-! DEFINITION. From words to instructions and back: the command decoder (R79, R81, R82), the classification of
wire bytes (R87), and the encoder of both, written from the same tables. -/

namespace Sys2Proof

/-! ## Command words -/

/-- Why a command word is illegal (R82). -/
inductive IllegalWord where
  /-- `op` is not in the table of R81. -/
  | undefinedOpcode (op : Byte)
  /-- `op` is defined, but an operand byte that R81 shows as 0 is not 0x00. -/
  | reservedOperand (op a b : Byte)
deriving DecidableEq, Repr

/-- The opcode of a command word, bits 23:16 (R79). -/
def opOf (w : CmdWord) : Byte := w.extractLsb' 16 8

/-- Operand A, bits 15:8 (R79). -/
def aOf (w : CmdWord) : Byte := w.extractLsb' 8 8

/-- Operand B, bits 7:0 (R79). -/
def bOf (w : CmdWord) : Byte := w.extractLsb' 0 8

/-- The word `0xOOAABB` (R79). -/
def cmdWord (op a b : Byte) : CmdWord := op ++ a ++ b

/-- A row of R81 with "0" in both operand columns. -/
def noOperand (i : Instr) (op a b : Byte) : Except IllegalWord Instr :=
  if a = 0 ∧ b = 0 then .ok i else .error (.reservedOperand op a b)

/-- A row of R81 with "0" in operand B's column. -/
def oneOperand (f : Byte → Instr) (op a b : Byte) : Except IllegalWord Instr :=
  if b = 0 then .ok (f a) else .error (.reservedOperand op a b)

/-- The opcode map of R81. -/
def decodeFields (op a b : Byte) : Except IllegalWord Instr :=
  match op.toNat with
  | 0x00 => noOperand .nop op a b
  | 0x01 => oneOperand .crcInit op a b
  | 0x02 => oneOperand .crcUpdate op a b
  | 0x03 => noOperand .crcRead op a b
  | 0x10 => oneOperand .pktSetAddr op a b
  | 0x11 => oneOperand .pktSetCmd op a b
  | 0x12 => oneOperand .pktSetLen op a b
  | 0x13 => .ok (.pktWrite a b)
  | 0x14 => noOperand .pktGetAddr op a b
  | 0x15 => noOperand .pktGetCmd op a b
  | 0x16 => noOperand .pktGetLen op a b
  | 0x17 => oneOperand .pktRead op a b
  | 0x20 => noOperand .encStart op a b
  | 0x21 => noOperand .decStart op a b
  | 0x30 => noOperand .statusRead op a b
  | 0x31 => noOperand .encOutcomeRead op a b
  | 0x32 => noOperand .decOutcomeRead op a b
  | 0x33 => noOperand .txCrcRead op a b
  | 0x34 => noOperand .rxCrcRead op a b
  | _ => .error (.undefinedOpcode op)

/-- The command a word encodes, or why it is illegal (R81, R82). -/
def decodeCmd (w : CmdWord) : Except IllegalWord Instr :=
  decodeFields (opOf w) (aOf w) (bOf w)

/-! ## Wire bytes -/

/-- The class of byte `b` in context `c` (R87); `maxLen` is `P_MAX_LEN`. Every byte has a class in every
context. -/
def decodeWire (maxLen : Nat) (c : WireContext) (b : Byte) : Instr :=
  match c with
  | .sync => if b = FEND then .syncFend else .syncOther b
  | .field =>
    if b = FESC then .fieldFesc
    else if b = FEND then .fieldRawFend
    else .fieldLiteral b
  | .escaped =>
    if b = TFEND then .escTfend
    else if b = TFESC then .escTfesc
    else .escBad b
  | .logical .addrOrCmd => if b.getLsbD 7 then .logAddrByte b else .logBcastCmd b
  | .logical .cmd => if b.getLsbD 7 then .logCmdAddrErr b else .logCmd b
  | .logical .len => if b.toNat ≤ maxLen then .logLen b else .logLenErr b
  | .logical .data => .logData b
  | .logical .crc => .logCrc b

/-! ## The encoder -/

/-- What an instruction is made of: a command word, or a byte together with the context in which it is taken. -/
inductive Encoded where
  | command (w : CmdWord)
  | wire (c : WireContext) (b : Byte)
deriving DecidableEq, Repr

/-- The words of an instruction (R81, R87). -/
def encode : Instr → Encoded
  | .nop => .command (cmdWord 0x00 0 0)
  | .crcInit seed => .command (cmdWord 0x01 seed 0)
  | .crcUpdate byte => .command (cmdWord 0x02 byte 0)
  | .crcRead => .command (cmdWord 0x03 0 0)
  | .pktSetAddr addr => .command (cmdWord 0x10 addr 0)
  | .pktSetCmd cmd => .command (cmdWord 0x11 cmd 0)
  | .pktSetLen n => .command (cmdWord 0x12 n 0)
  | .pktWrite index data => .command (cmdWord 0x13 index data)
  | .pktGetAddr => .command (cmdWord 0x14 0 0)
  | .pktGetCmd => .command (cmdWord 0x15 0 0)
  | .pktGetLen => .command (cmdWord 0x16 0 0)
  | .pktRead index => .command (cmdWord 0x17 index 0)
  | .encStart => .command (cmdWord 0x20 0 0)
  | .decStart => .command (cmdWord 0x21 0 0)
  | .statusRead => .command (cmdWord 0x30 0 0)
  | .encOutcomeRead => .command (cmdWord 0x31 0 0)
  | .decOutcomeRead => .command (cmdWord 0x32 0 0)
  | .txCrcRead => .command (cmdWord 0x33 0 0)
  | .rxCrcRead => .command (cmdWord 0x34 0 0)
  | .syncFend => .wire .sync FEND
  | .syncOther r => .wire .sync r
  | .fieldFesc => .wire .field FESC
  | .fieldRawFend => .wire .field FEND
  | .fieldLiteral r => .wire .field r
  | .escTfend => .wire .escaped TFEND
  | .escTfesc => .wire .escaped TFESC
  | .escBad r => .wire .escaped r
  | .logAddrByte v => .wire (.logical .addrOrCmd) v
  | .logBcastCmd v => .wire (.logical .addrOrCmd) v
  | .logCmd v => .wire (.logical .cmd) v
  | .logCmdAddrErr v => .wire (.logical .cmd) v
  | .logLen v => .wire (.logical .len) v
  | .logLenErr v => .wire (.logical .len) v
  | .logData v => .wire (.logical .data) v
  | .logCrc v => .wire (.logical .crc) v

/-- The instruction an encoding stands for. -/
def decode (maxLen : Nat) : Encoded → Except IllegalWord Instr
  | .command w => decodeCmd w
  | .wire c b => .ok (decodeWire maxLen c b)

/-- Whether an instruction is a command of the command port (a CMD24 row) rather than a wire byte class. -/
def Instr.isCommand (i : Instr) : Bool :=
  match encode i with
  | .command _ => true
  | .wire _ _ => false

/-! ## The table's own numbering -/

/-- Several WIRE8 rows have the same pattern of bits, told apart by context (R87). A byte taken from the table
without a context is read in this one: a marker where it is special, any other byte as a logical byte in
`ADDR_OR_CMD` (DESIGN CHOICE, log entry 11). -/
def tableContext (b : Byte) : WireContext :=
  if b = FEND then .sync
  else if b = FESC then .field
  else if b = TFEND ∨ b = TFESC then .escaped
  else .logical .addrOrCmd

/-- The instruction read from the bits of an opcode table row: a row of at most 8 bits is a wire byte, a longer
one a command word. -/
def decodeTableWord (nbits w : Nat) : Option Instr :=
  if nbits ≤ 8 then
    let b := BitVec.ofNat 8 w
    some (decodeWire Config.default.maxLen (tableContext b) b)
  else
    match decodeCmd (BitVec.ofNat 24 w) with
    | .ok i => some i
    | .error _ => none

/-! ## Assembler syntax (R84) -/

/-- One hexadecimal digit. -/
def hexDigit (n : Nat) : String :=
  String.singleton (if n < 10 then Char.ofNat (48 + n) else Char.ofNat (55 + n))

/-- A byte as `0xNN` (R84). -/
def hexByte (b : Byte) : String :=
  "0x" ++ hexDigit (b.toNat / 16) ++ hexDigit (b.toNat % 16)

/-- A command in the syntax of R84. A wire byte class has none: what is written there is the RX event that
delivers the byte (`RxEvent.assembly`). -/
def Instr.assembly : Instr → Option String
  | .nop => some "NOP"
  | .crcInit seed => some ("CRC_INIT " ++ hexByte seed)
  | .crcUpdate byte => some ("CRC_UPDATE " ++ hexByte byte)
  | .crcRead => some "CRC_READ"
  | .pktSetAddr addr => some ("PKT_SET_ADDR " ++ hexByte addr)
  | .pktSetCmd cmd => some ("PKT_SET_CMD " ++ hexByte cmd)
  | .pktSetLen n => some ("PKT_SET_LEN " ++ hexByte n)
  | .pktWrite index data => some ("PKT_WRITE " ++ hexByte index ++ ", " ++ hexByte data)
  | .pktGetAddr => some "PKT_GET_ADDR"
  | .pktGetCmd => some "PKT_GET_CMD"
  | .pktGetLen => some "PKT_GET_LEN"
  | .pktRead index => some ("PKT_READ " ++ hexByte index)
  | .encStart => some "ENC_START"
  | .decStart => some "DEC_START"
  | .statusRead => some "STATUS_READ"
  | .encOutcomeRead => some "ENC_OUTCOME_READ"
  | .decOutcomeRead => some "DEC_OUTCOME_READ"
  | .txCrcRead => some "TX_CRC_READ"
  | .rxCrcRead => some "RX_CRC_READ"
  | .syncFend | .syncOther _ | .fieldFesc | .fieldRawFend | .fieldLiteral _ | .escTfend | .escTfesc
  | .escBad _ | .logAddrByte _ | .logBcastCmd _ | .logCmd _ | .logCmdAddrErr _ | .logLen _ | .logLenErr _
  | .logData _ | .logCrc _ => none

end Sys2Proof
end

