-- ==== Sys2Proof/Machine/State.lean ====
section
/-! DEFINITION. The state of the block (R20), the environment it meets at its ports (R43 to R46), the reasons a
step can stop, and the state after reset (R48). All of it is plain data. -/

namespace Sys2Proof.Machine

/-- `PKT_DATA` (R25, R50): the cells that do not hold 0x00, by index, strictly rising (log entry 6). -/
abbrev Memory := List Host.Cell

/-- `D_PHASE` (R34). -/
inductive Phase where
  | idle
  | sync
  | field (p : FieldPhase)
deriving DecidableEq, Repr

/-- The values of `ENC_OUTCOME` (R30, R264). -/
inductive EncOutcome where
  | ok
  | transportError
  | none
deriving DecidableEq, Repr

/-- The values of `DEC_OUTCOME` (R31, R263). -/
inductive DecOutcome where
  | ok
  | transportError
  | syncError
  | staffingError
  | addressError
  | checksumError
  | timeout
  | lengthError
  | none
deriving DecidableEq, Repr

/-- The response codes of the command port (R80, R261). -/
inductive RespCode where
  | ok
  | illegal
  | busy
  | range
deriving DecidableEq, Repr

/-- What a command ends with (R80). -/
structure Response where
  code : RespCode
  data : Byte
deriving DecidableEq, Repr

/-- The transport's answer to an offered byte (R44). -/
inductive TxAnswer where
  | ack
  | fail
deriving DecidableEq, Repr

/-- An event of the RX port (R45). -/
inductive RxEvent where
  | byte (r : Byte)
  | timeout
  | error
deriving DecidableEq, Repr

/-- Who takes a step (R272); the transport acts through the answers and events it gives. -/
inductive Agent where
  | host
  | encoder
  | decoder
  | reset
deriving DecidableEq, Repr

/-- The block's environment, which is no state of the block (R20): what it will still do, as lists of any
content (R272, P7 to P9; log entry 2), and what it has seen (R306; log entry 9). -/
structure Ports where
  /-- The agents in the order of their coming steps (R58). -/
  turns : List Agent
  /-- The command words the host will issue, in order (R43). -/
  commands : List CmdWord
  /-- The transport's answers to the coming TX offers (R44). -/
  answers : List TxAnswer
  /-- The RX events the transport holds or will deliver, in order (R45). -/
  events : List RxEvent
  /-- The responses given so far, oldest first. -/
  responses : List Response
  /-- The bytes emitted on the TX port so far, oldest first. -/
  line : List Byte
deriving DecidableEq, Repr

structure State where
  /-- `CRC_ACC` (R21). -/
  crcAcc : Byte
  /-- `PKT_ADDR` (R22). -/
  pktAddr : BitVec 7
  /-- `PKT_CMD` (R23). -/
  pktCmd : Byte
  /-- `PKT_LEN` (R24). -/
  pktLen : Byte
  /-- `PKT_DATA` (R25). -/
  pktData : Memory
  /-- `TX_CRC` (R26). -/
  txCrc : Byte
  /-- `RX_CRC` (R27). -/
  rxCrc : Byte
  /-- `ENC_BUSY` (R28). -/
  encBusy : Bool
  /-- `DEC_BUSY` (R29). -/
  decBusy : Bool
  /-- `ENC_OUTCOME` (R30). -/
  encOutcome : EncOutcome
  /-- `DEC_OUTCOME` (R31). -/
  decOutcome : DecOutcome
  /-- `ENC_WIRE` (R33). -/
  encWire : List Byte
  /-- `ENC_PTR` (R33). -/
  encPtr : Nat
  /-- `D_PHASE` (R34). -/
  dPhase : Phase
  /-- `D_ESC` (R35). -/
  dEsc : Bool
  /-- `D_SYNC_CNT` (R36). -/
  dSyncCnt : Nat
  /-- `D_IDX` (R37). -/
  dIdx : Nat
  /-- The parameters (R6 to R11), the CRC table among them (R38): no step changes them (log entry 1). -/
  cfg : Config
  /-- The model's own: how many free values have been drawn (R16; log entry 5). -/
  draws : Nat
  /-- The environment at the ports (log entry 2). -/
  ports : Ports
deriving DecidableEq, Repr

/-- Reasons for a stop. The block itself has none (R260); these name what the spec says does not exist. -/
inductive Fault where
  /-- Raised by the meaning of a wire byte class that is run outside the context, or on a byte outside the
  pattern, that R87 gives the class: no such step exists (R45, R87; log entry 4). `step` classifies a byte before
  it runs it, so it never raises this. Safe: the model stops where the hardware has no step. -/
  | noSuchStep
  /-- Raised by `ENC_START` and by a payload byte of the decoder when they would reach past the last cell of
  `PKT_DATA` (R50). R42 puts that out of reach of every run (log entry 6). Safe: the model stops where the spec
  gives no cell. -/
  | noSuchCell
deriving DecidableEq, Repr

/-- Reasons for a refusal: only an instruction without a meaning, and there is none. (A command the block itself
refuses is answered with a response code and has a next state, R261.) -/
inductive Refusal where
  /-- Raised by `exec` for an instruction that has no meaning yet. Safe: the model stops. -/
  | notModelled (mnemonic : String)
deriving DecidableEq, Repr

/-- How a step ends. -/
abbrev Result := Host.Outcome State Fault Refusal

/-- An environment that does nothing and has seen nothing. -/
def Ports.empty : Ports where
  turns := []
  commands := []
  answers := []
  events := []
  responses := []
  line := []

/-- The state of R48 for any values of the parameters. -/
def State.resetWith (c : Config) : State where
  crcAcc := c.seed
  pktAddr := 0
  pktCmd := 0
  pktLen := 0
  pktData := []
  txCrc := 0
  rxCrc := 0
  encBusy := false
  decBusy := false
  encOutcome := .none
  decOutcome := .none
  encWire := []
  encPtr := 0
  dPhase := .idle
  dEsc := false
  dSyncCnt := 0
  dIdx := 0
  cfg := c
  draws := 0
  ports := Ports.empty

/-- The state after `RST` or power-up (R48), with the parameters at their defaults. -/
def State.reset : State := State.resetWith Config.default

end Sys2Proof.Machine
end

