-- ==== Sys2Proof/Machine/Ops.lean ====
section
/-! DEFINITION. The named operations: the cells of `PKT_DATA` (R50), the checksum functions (R100 to R103),
responding (R80), the free values (R16), and how an operation ends: `terminate` (R174), the nearest thing to
taking an exception (R266), the encode abort (R267) and `RST` (R290). -/

namespace Sys2Proof.Machine

/-! ## The payload cells -/

/-- What a cell that is not listed holds: 0x00, the reset value of every cell (R48). -/
def Memory.unlisted : Byte := 0x00

/-- `PKT_DATA[i]` (R15, R50). -/
def Memory.read (m : Memory) (i : Nat) : Byte :=
  match m with
  | [] => Memory.unlisted
  | (k, v) :: rest => if k = i then v else Memory.read rest i

/-- `PKT_DATA[i] <- v` (R15, R50), in canonical form. -/
def Memory.write (m : Memory) (i : Nat) (v : Byte) : Memory :=
  match m with
  | [] => if v = Memory.unlisted then [] else [(i, v)]
  | (k, w) :: rest =>
    if i < k then
      if v = Memory.unlisted then (k, w) :: rest else (i, v) :: (k, w) :: rest
    else if i = k then
      if v = Memory.unlisted then rest else (i, v) :: rest
    else (k, w) :: Memory.write rest i v

/-- The canonical form: indices strictly rising, no cell listed that holds what an unlisted one holds. -/
def Memory.wf (m : Memory) : Bool :=
  decide (m.Pairwise fun x y => x.1 < y.1) && m.all fun x => x.2 != Memory.unlisted

/-- Every listed cell is one of the cells `0 .. cap-1` (R50). -/
def Memory.within (m : Memory) (cap : Nat) : Bool :=
  m.all fun x => decide (x.1 < cap)

/-- Write `f i` to each cell `i` of `lo .. lo+count-1`. -/
def Memory.fill (m : Memory) (f : Nat → Byte) (lo : Nat) : Nat → Memory
  | 0 => m
  | count + 1 => Memory.write (Memory.fill m f lo count) (lo + count) (f (lo + count))

/-- The payload `PKT_DATA[0 .. n-1]`, in ascending order (R140). -/
def Memory.payload (m : Memory) (n : Nat) : List Byte :=
  (List.range n).map m.read

/-! ## The checksum functions -/

/-- `T(i)` (R100). -/
def T (c : Config) (i : Byte) : Byte := c.crcTable[i.toNat]

/-- `upd(c, b) = T(c ^ b)` (R101): one fold. -/
def upd (c : Config) (acc b : Byte) : Byte := T c (acc ^^^ b)

/-- `fold` over a list, in list order (R102). -/
def fold (c : Config) (acc : Byte) (bytes : List Byte) : Byte := bytes.foldl (upd c) acc

/-- `Result(c) = c` (R103). -/
def crcResult (acc : Byte) : Byte := acc

/-! ## Responses -/

/-- `respond(code, data)` (R16, R80): the command ends with one response. -/
def State.respond (s : State) (code : RespCode) (data : Byte) : State :=
  { s with ports.responses := s.ports.responses ++ [⟨code, data⟩] }

/-- A command that is not performed: it responds and changes nothing (R80, R261). -/
def State.refuse (s : State) (code : RespCode) : State := s.respond code 0x00

/-! ## Free values -/

/-- The free value of the `k`-th draw from here on (R16). -/
def State.drawn (s : State) (k : Nat) : Byte := Config.freeByte (s.draws + k)

/-- How many values one `terminate` draws: one for each cell, and three for the other packet registers. -/
def drawsPerDecode (cap : Nat) : Nat := cap + 3

/-- The draws of a decode that did not end `Ok` (R174, R185): every packet register, `PKT_ADDR` within
0x00..0x7F and `PKT_LEN` within 0..`P_MAX_LEN`. -/
def State.drawPacket (s : State) : State :=
  { s with
    pktAddr := (s.drawn s.cfg.payloadCap).setWidth 7
    pktCmd := s.drawn (s.cfg.payloadCap + 1)
    pktLen := BitVec.ofNat 8 ((s.drawn (s.cfg.payloadCap + 2)).toNat % (s.cfg.maxLen + 1))
    pktData := s.pktData.fill s.drawn 0 s.cfg.payloadCap
    draws := s.draws + drawsPerDecode s.cfg.payloadCap }

/-- The draws of an `Ok` decode (R174, R186): the cells from `PKT_LEN` on. -/
def State.drawRest (s : State) : State :=
  { s with
    pktData := s.pktData.fill s.drawn s.pktLen.toNat (s.cfg.payloadCap - s.pktLen.toNat)
    draws := s.draws + drawsPerDecode s.cfg.payloadCap }

/-! ## Ends of operations -/

/-- `terminate(code)` (R174): a decode ends. `RX_CRC`, `D_SYNC_CNT` and `D_IDX` keep their values. -/
def terminate (code : DecOutcome) (s : State) : State :=
  let s' := { s with decBusy := false, dPhase := .idle, dEsc := false, decOutcome := code }
  if code = .ok then s'.drawRest else s'.drawPacket

/-- An encode ends with `code` (R144, R145, R267). -/
def endEncode (code : EncOutcome) (s : State) : State :=
  { s with encBusy := false, encOutcome := code }

/-- `RST` (R46, R290): every piece of state to its value in R48. The parameters are not state, the environment
keeps what it has not yet done (R292) and what it has seen, and the draws go on (log entry 10). -/
def State.rst (s : State) : State :=
  { State.resetWith s.cfg with draws := s.draws, ports := s.ports }

end Sys2Proof.Machine
end

