-- ==== Sys2Proof/Machine/Operands.lean ====
section
/-! DEFINITION. Operand checks of the commands (R83) and the context of a wire byte (R87, R171). -/

namespace Sys2Proof.Machine

/-- The address operand `a[6:0]` (R83). -/
def addrOperand (a : Byte) : BitVec 7 := a.extractLsb' 0 7

/-- `PKT_SET_ADDR`: `a[7] = 1` is out of range (R83, R120). -/
def addrOutOfRange (a : Byte) : Bool := a.getLsbD 7

/-- `PKT_SET_LEN`, and the decoder's length byte: above `P_MAX_LEN` (R83, R122, R182). -/
def lenOutOfRange (c : Config) (a : Byte) : Bool := decide (c.maxLen < a.toNat)

/-- `PKT_WRITE` and `PKT_READ`: the index is no cell (R83, R123, R127). -/
def indexOutOfRange (c : Config) (a : Byte) : Bool := decide (c.payloadCap ≤ a.toNat)

/-- The number of a phase (R34). -/
def Phase.number : Phase → Nat
  | .idle => 0
  | .sync => 1
  | .field .addrOrCmd => 2
  | .field .cmd => 3
  | .field .len => 4
  | .field .data => 5
  | .field .crc => 6

/-- The field phases: `ADDR_OR_CMD`, `CMD`, `LEN`, `DATA` and `CRC` (R35, R176). -/
def Phase.isField : Phase → Bool
  | .idle => false
  | .sync => false
  | .field _ => true

/-- The context in which the next raw byte is classified (R171); none when the decoder takes no event (R45). A
state with `DEC_BUSY = 1` and phase `IDLE` is out of reach (R34), and R171 gives it no case (log entry 16). -/
def State.wireContext (s : State) : Option WireContext :=
  if s.decBusy then
    match s.dPhase with
    | .idle => none
    | .sync => some .sync
    | .field _ => if s.dEsc then some .escaped else some .field
  else none

/-- Whether a byte can be taken in context `c` now (R87). A logical byte comes from a raw byte of the same step,
so only its phase counts. -/
def State.inContext (s : State) : WireContext → Bool
  | .sync => s.wireContext == some .sync
  | .field => s.wireContext == some .field
  | .escaped => s.wireContext == some .escaped
  | .logical p => s.decBusy && s.dPhase == .field p

/-- Run `k` if byte `b` can be taken in context `c` now and is of the class `i` there (R87); otherwise no such
step exists. -/
def State.onByte (s : State) (c : WireContext) (b : Byte) (i : Instr) (k : Result) : Result :=
  if s.inContext c && decodeWire s.cfg.maxLen c b == i then k else .fault .noSuchStep

end Sys2Proof.Machine
end

