-- ==== Sys2Proof/Machine/Flags.lean ====
section
/-! DEFINITION. The flags `ENC_BUSY` and `DEC_BUSY` (R41), the checks on them (R261), the `STATUS` view (R32), and
the numbers of the outcome and response codes (R261, R263, R264). -/

namespace Sys2Proof.Machine

/-- `ENC_BUSY == 1 or DEC_BUSY == 1`. -/
def State.anyBusy (s : State) : Bool := s.encBusy || s.decBusy

/-- `STATUS` (R32): bit 0 is `ENC_BUSY`, bit 1 is `DEC_BUSY`, bits 7:2 read 0. -/
def State.status (s : State) : Byte := 0#6 ++ BitVec.ofBool s.decBusy ++ BitVec.ofBool s.encBusy

/-- The value of an encode outcome (R264). -/
def EncOutcome.number : EncOutcome → BitVec 4
  | .ok => 0
  | .transportError => 1
  | .none => 8

/-- The value of a decode outcome (R263). -/
def DecOutcome.number : DecOutcome → BitVec 4
  | .ok => 0
  | .transportError => 1
  | .syncError => 2
  | .staffingError => 3
  | .addressError => 4
  | .checksumError => 5
  | .timeout => 6
  | .lengthError => 7
  | .none => 8

/-- The value of a response code (R80, R261). -/
def RespCode.number : RespCode → BitVec 2
  | .ok => 0
  | .illegal => 1
  | .busy => 2
  | .range => 3

/-- Refuse with `CR_BUSY` if `busy`, otherwise go on with `k` (R261). -/
def State.unlessBusy (s : State) (busy : Bool) (k : Result) : Result :=
  if busy then .next (s.refuse .busy) else k

/-- Refuse with `CR_RANGE` if the operand is `out` of range, otherwise go on with `k` (R261). -/
def State.unlessOut (s : State) (out : Bool) (k : Result) : Result :=
  if out then .next (s.refuse .range) else k

/-- The command is performed and answers no data (R80). -/
def State.done (s : State) : Result := .next (s.respond .ok 0x00)

/-- The command is performed, answers `data`, and changes no state (R56, R80). -/
def State.answer (s : State) (data : Byte) : Result := .next (s.respond .ok data)

end Sys2Proof.Machine
end

