-- ==== Sys2Proof/Machine/Frame.lean ====
section
/-! DEFINITION. The wire frame as a function of the packet (R70 to R78, R141, R142). -/

namespace Sys2Proof.Machine

/-- `ADDR_FLAG | addr` (R72). -/
def addrByte (addr : BitVec 7) : Byte := ADDR_FLAG ||| addr.zeroExtend 8

/-- `L(addr, cmd, n, d)` (R71): the logical bytes before the checksum. -/
def logical (addr : BitVec 7) (cmd n : Byte) (d : List Byte) : List Byte :=
  (if addr ≠ 0 then [addrByte addr] else []) ++ [cmd, n] ++ d

/-- `stuff(b)` (R74). -/
def stuff (b : Byte) : List Byte :=
  if b = FEND then [FESC, TFEND]
  else if b = FESC then [FESC, TFESC]
  else [b]

/-- `stuffAll` (R74). -/
def stuffAll (bs : List Byte) : List Byte := bs.flatMap stuff

/-- The inverse of `stuffAll` (R76.5): the logical bytes of a stuffed sequence, if it is one. -/
def destuff : List Byte → Option (List Byte)
  | [] => some []
  | b :: rest =>
    if b = FEND then none
    else if b = FESC then
      match rest with
      | [] => none
      | t :: rest' =>
        if t = TFEND then (destuff rest').map (FEND :: ·)
        else if t = TFESC then (destuff rest').map (FESC :: ·)
        else none
    else (destuff rest).map (b :: ·)

/-- The bytes folded before the fields: `FEND` when `P_FEND_IN_CRC = 1` (R10, R141). -/
def crcLead (c : Config) : List Byte := if c.fendInCrc then [FEND] else []

/-- The checksum byte `c` of R141. -/
def frameCrc (c : Config) (addr : BitVec 7) (cmd n : Byte) (d : List Byte) : Byte :=
  crcResult (fold c c.seed (crcLead c ++ logical addr cmd n d))

/-- `EncodeFrame(addr, cmd, n, d)` (R142): the wire frame and its checksum. -/
def encodeFrame (c : Config) (addr : BitVec 7) (cmd n : Byte) (d : List Byte) : List Byte × Byte :=
  let crc := frameCrc c addr cmd n d
  (FEND :: stuffAll (logical addr cmd n d ++ [crc]), crc)

/-- The frame of the packet registers, which is what `ENC_START` encodes (R140, R143). -/
def State.frame (s : State) : List Byte × Byte :=
  encodeFrame s.cfg s.pktAddr s.pktCmd s.pktLen (s.pktData.payload s.pktLen.toNat)

end Sys2Proof.Machine
end

