-- ==== Sys2Proof/Machine/Crc.lean ====
section
/-! DEFINITION. The commands of the CRC engine (R105 to R107). They touch `CRC_ACC` only, and are never busy. -/

namespace Sys2Proof.Machine

/-- `CRC_INIT seed` (R105). -/
def execCrcInit (seed : Byte) (s : State) : Result := State.done { s with crcAcc := seed }

/-- `CRC_UPDATE byte` (R106). -/
def execCrcUpdate (byte : Byte) (s : State) : Result :=
  State.done { s with crcAcc := upd s.cfg s.crcAcc byte }

/-- `CRC_READ` (R107). -/
def execCrcRead (s : State) : Result := s.answer (crcResult s.crcAcc)

end Sys2Proof.Machine
end

