-- ==== Sys2Proof/Machine/Decoder.lean ====
section
/-! DEFINITION. The decoder: `DEC_START` (R170), the logical byte classes (R179 to R184), the raw byte classes
(R175 to R178), and the RX events that carry no byte (R172, R173). -/

namespace Sys2Proof.Machine

/-- `DEC_START` (R170). -/
def execDecStart (s : State) : Result :=
  s.unlessBusy s.anyBusy <|
    State.done
      { s with
        rxCrc := s.cfg.seed
        dPhase := .sync
        dEsc := false
        dSyncCnt := 0
        dIdx := 0
        decBusy := true }

/-! ## Logical bytes

Each of these is the whole of `field(v)` (R179) for one class of R87: the byte is folded first, then interpreted
in the current phase (log entry 12). -/

/-- `RX_CRC <- T(RX_CRC ^ v)` (R179): fold before interpretation. -/
def State.foldRx (s : State) (v : Byte) : State := { s with rxCrc := upd s.cfg s.rxCrc v }

/-- `LOG_ADDR_BYTE` (R180): an addressed frame. -/
def execLogAddrByte (v : Byte) (s : State) : Result :=
  s.onByte (.logical .addrOrCmd) v (.logAddrByte v) <|
    .next { s.foldRx v with pktAddr := v.extractLsb' 0 7, dPhase := .field .cmd }

/-- `LOG_BCAST_CMD` (R180): a broadcast frame; the command takes the address's place. -/
def execLogBcastCmd (v : Byte) (s : State) : Result :=
  s.onByte (.logical .addrOrCmd) v (.logBcastCmd v) <|
    .next { s.foldRx v with pktAddr := 0, pktCmd := v, dPhase := .field .len }

/-- `LOG_CMD` (R181). -/
def execLogCmd (v : Byte) (s : State) : Result :=
  s.onByte (.logical .cmd) v (.logCmd v) <|
    .next { s.foldRx v with pktCmd := v, dPhase := .field .len }

/-- `LOG_CMD_ADDRERR` (R181): bit 7 is set where the command stands. -/
def execLogCmdAddrErr (v : Byte) (s : State) : Result :=
  s.onByte (.logical .cmd) v (.logCmdAddrErr v) <| .next (terminate .addressError (s.foldRx v))

/-- `LOG_LEN` (R182). -/
def execLogLen (v : Byte) (s : State) : Result :=
  s.onByte (.logical .len) v (.logLen v) <|
    .next
      { s.foldRx v with
        pktLen := v
        dIdx := 0
        dPhase := if v = 0 then .field .crc else .field .data }

/-- `LOG_LEN_ERR` (R182): the length is above `P_MAX_LEN`. -/
def execLogLenErr (v : Byte) (s : State) : Result :=
  s.onByte (.logical .len) v (.logLenErr v) <| .next (terminate .lengthError (s.foldRx v))

/-- `LOG_DATA` (R183). The cell `D_IDX` exists by R42; a state that breaks R42 has no cell to write. -/
def execLogData (v : Byte) (s : State) : Result :=
  s.onByte (.logical .data) v (.logData v) <|
    if s.dIdx < s.cfg.payloadCap then
      .next
        { s.foldRx v with
          pktData := s.pktData.write s.dIdx v
          dIdx := s.dIdx + 1
          dPhase := if s.dIdx + 1 = s.pktLen.toNat then .field .crc else .field .data }
    else .fault .noSuchCell

/-- `LOG_CRC` (R184): the accumulator after the checksum byte decides. -/
def execLogCrc (v : Byte) (s : State) : Result :=
  s.onByte (.logical .crc) v (.logCrc v) <|
    .next (terminate (if upd s.cfg s.rxCrc v = 0 then .ok else .checksumError) (s.foldRx v))

/-- `field(v)` (R179): one logical byte, by the current phase. -/
def field (v : Byte) (s : State) : Result :=
  match s.dPhase with
  | .field .addrOrCmd => if v.getLsbD 7 then execLogAddrByte v s else execLogBcastCmd v s
  | .field .cmd => if v.getLsbD 7 then execLogCmdAddrErr v s else execLogCmd v s
  | .field .len => if lenOutOfRange s.cfg v then execLogLenErr v s else execLogLen v s
  | .field .data => execLogData v s
  | .field .crc => execLogCrc v s
  | .idle => .fault .noSuchStep
  | .sync => .fault .noSuchStep

/-! ## Raw bytes in SYNC -/

/-- `SYNC_FEND` (R175): the start marker is counted, and folded when `P_FEND_IN_CRC = 1`. -/
def execSyncFend (s : State) : Result :=
  s.onByte .sync FEND .syncFend <|
    .next
      { s with
        dSyncCnt := s.dSyncCnt + 1
        rxCrc := fold s.cfg s.rxCrc (crcLead s.cfg)
        dPhase := .field .addrOrCmd }

/-- `SYNC_OTHER` (R175): counted and discarded; the `P_SYNC_LIMIT`-th ends the decode. -/
def execSyncOther (r : Byte) (s : State) : Result :=
  s.onByte .sync r (.syncOther r) <|
    let s' := { s with dSyncCnt := s.dSyncCnt + 1 }
    .next (if s.dSyncCnt + 1 = s.cfg.syncLimit then terminate .syncError s' else s')

/-! ## Raw bytes in a field phase -/

/-- `FIELD_FESC` (R177): an escape pair starts; nothing is folded. -/
def execFieldFesc (s : State) : Result :=
  s.onByte .field FESC .fieldFesc <| .next { s with dEsc := true }

/-- `FIELD_RAW_FEND` (R178): a data byte under `DATA`, a restart of the frame under `RESYNC`. -/
def execFieldRawFend (s : State) : Result :=
  s.onByte .field FEND .fieldRawFend <|
    match s.cfg.midframeFend with
    | .data => field FEND s
    | .resync =>
      .next
        { s with
          rxCrc := fold s.cfg s.cfg.seed (crcLead s.cfg)
          dPhase := .field .addrOrCmd
          dIdx := 0 }

/-- `FIELD_LITERAL` (R171, R179): the raw byte is the logical byte. -/
def execFieldLiteral (r : Byte) (s : State) : Result :=
  s.onByte .field r (.fieldLiteral r) <| field r s

/-- `ESC_TFEND` (R176): the pair stands for `FEND`. -/
def execEscTfend (s : State) : Result :=
  s.onByte .escaped TFEND .escTfend <| field FEND { s with dEsc := false }

/-- `ESC_TFESC` (R176): the pair stands for `FESC`. -/
def execEscTfesc (s : State) : Result :=
  s.onByte .escaped TFESC .escTfesc <| field FESC { s with dEsc := false }

/-- `ESC_BAD` (R176): no such pair; nothing is folded. -/
def execEscBad (r : Byte) (s : State) : Result :=
  s.onByte .escaped r (.escBad r) <| .next (terminate .staffingError { s with dEsc := false })

/-! ## Events without a byte -/

/-- `RX_TIMEOUT` (R172), in every phase and whatever `D_ESC` is. -/
def rxTimeout (s : State) : State := terminate .timeout s

/-- `RX_ERROR` (R173). -/
def rxError (s : State) : State := terminate .transportError s

end Sys2Proof.Machine
end

