-- ==== Sys2Proof/Machine/Encoder.lean ====
section
/-! DEFINITION. The encoder: `ENC_START` (R143) and the TX steps (R144, R145). -/

namespace Sys2Proof.Machine

/-- `ENC_START` (R143): latch the wire image and the checksum, and start offering. A `PKT_LEN` beyond the payload
cells is out of reach (R42.2), and there would be no cells to read (log entry 6). -/
def execEncStart (s : State) : Result :=
  s.unlessBusy s.anyBusy <|
    if s.cfg.payloadCap < s.pktLen.toNat then .fault .noSuchCell
    else State.done { s with encWire := s.frame.1, encPtr := 0, txCrc := s.frame.2, encBusy := true }

/-- The byte offered on the TX port (R44): `ENC_WIRE[ENC_PTR]` while `ENC_BUSY = 1`, and nothing otherwise. -/
def State.offer (s : State) : Option Byte :=
  if s.encBusy then s.encWire[s.encPtr]? else none

/-- `TX_ACK` for the offered byte `b` (R144). The test reads `ENC_PTR` before its increment. -/
def txAck (b : Byte) (s : State) : State :=
  let s' := { s with encPtr := s.encPtr + 1, ports.line := s.ports.line ++ [b] }
  if s.encPtr + 1 = s.encWire.length then endEncode .ok s' else s'

/-- `TX_FAIL` (R145): nothing more is emitted, and `ENC_PTR` keeps its value. -/
def txFail (s : State) : State := endEncode .transportError s

/-- One TX step: the transport answers the offer of `b` (R44). -/
def txStep (b : Byte) (answer : TxAnswer) (s : State) : State :=
  match answer with
  | .ack => txAck b s
  | .fail => txFail s

end Sys2Proof.Machine
end

