-- ==== Sys2Proof/Machine/Packet.lean ====
section
/-! DEFINITION. The packet register commands (R120 to R127). -/

namespace Sys2Proof.Machine

/-- `PKT_SET_ADDR addr` (R120). -/
def execPktSetAddr (addr : Byte) (s : State) : Result :=
  s.unlessBusy s.anyBusy <| s.unlessOut (addrOutOfRange addr) <|
    State.done { s with pktAddr := addrOperand addr }

/-- `PKT_SET_CMD cmd` (R121). -/
def execPktSetCmd (cmd : Byte) (s : State) : Result :=
  s.unlessBusy s.anyBusy <| State.done { s with pktCmd := cmd }

/-- `PKT_SET_LEN n` (R122). -/
def execPktSetLen (n : Byte) (s : State) : Result :=
  s.unlessBusy s.anyBusy <| s.unlessOut (lenOutOfRange s.cfg n) <| State.done { s with pktLen := n }

/-- `PKT_WRITE index, data` (R123). -/
def execPktWrite (index data : Byte) (s : State) : Result :=
  s.unlessBusy s.anyBusy <| s.unlessOut (indexOutOfRange s.cfg index) <|
    State.done { s with pktData := s.pktData.write index.toNat data }

/-- `PKT_GET_ADDR` (R124). -/
def execPktGetAddr (s : State) : Result :=
  s.unlessBusy s.decBusy <| s.answer (s.pktAddr.zeroExtend 8)

/-- `PKT_GET_CMD` (R125). -/
def execPktGetCmd (s : State) : Result :=
  s.unlessBusy s.decBusy <| s.answer s.pktCmd

/-- `PKT_GET_LEN` (R126). -/
def execPktGetLen (s : State) : Result :=
  s.unlessBusy s.decBusy <| s.answer s.pktLen

/-- `PKT_READ index` (R127). -/
def execPktRead (index : Byte) (s : State) : Result :=
  s.unlessBusy s.decBusy <| s.unlessOut (indexOutOfRange s.cfg index) <|
    s.answer (s.pktData.read index.toNat)

end Sys2Proof.Machine
end

