-- ==== Sys2Proof/Machine/Status.lean ====
section
/-! DEFINITION. `NOP` and the status and diagnostic reads (R220 to R225). None writes any state. -/

namespace Sys2Proof.Machine

/-- `NOP` (R220). -/
def execNop (s : State) : Result := s.done

/-- `STATUS_READ` (R221). -/
def execStatusRead (s : State) : Result := s.answer s.status

/-- `ENC_OUTCOME_READ` (R222). -/
def execEncOutcomeRead (s : State) : Result :=
  s.unlessBusy s.encBusy <| s.answer (s.encOutcome.number.zeroExtend 8)

/-- `DEC_OUTCOME_READ` (R223). -/
def execDecOutcomeRead (s : State) : Result :=
  s.unlessBusy s.decBusy <| s.answer (s.decOutcome.number.zeroExtend 8)

/-- `TX_CRC_READ` (R224). -/
def execTxCrcRead (s : State) : Result :=
  s.unlessBusy s.encBusy <| s.answer s.txCrc

/-- `RX_CRC_READ` (R225). -/
def execRxCrcRead (s : State) : Result :=
  s.unlessBusy s.decBusy <| s.answer s.rxCrc

end Sys2Proof.Machine
end

