-- ==== Sys2Proof/Machine/Dispatch.lean ====
section
/-! DEFINITION. The meaning of each instruction: one arm for each row of spec/opcode_table.json. -/

namespace Sys2Proof.Machine

def exec (i : Instr) (s : State) : Host.Outcome State Fault Refusal :=
  match i with
  | .nop => Sys2Proof.Machine.execNop s
  | .crcInit seed => Sys2Proof.Machine.execCrcInit seed s
  | .crcUpdate byte => Sys2Proof.Machine.execCrcUpdate byte s
  | .crcRead => Sys2Proof.Machine.execCrcRead s
  | .pktSetAddr addr => Sys2Proof.Machine.execPktSetAddr addr s
  | .pktSetCmd cmd => Sys2Proof.Machine.execPktSetCmd cmd s
  | .pktSetLen n => Sys2Proof.Machine.execPktSetLen n s
  | .pktWrite index data => Sys2Proof.Machine.execPktWrite index data s
  | .pktGetAddr => Sys2Proof.Machine.execPktGetAddr s
  | .pktGetCmd => Sys2Proof.Machine.execPktGetCmd s
  | .pktGetLen => Sys2Proof.Machine.execPktGetLen s
  | .pktRead index => Sys2Proof.Machine.execPktRead index s
  | .encStart => Sys2Proof.Machine.execEncStart s
  | .decStart => Sys2Proof.Machine.execDecStart s
  | .statusRead => Sys2Proof.Machine.execStatusRead s
  | .encOutcomeRead => Sys2Proof.Machine.execEncOutcomeRead s
  | .decOutcomeRead => Sys2Proof.Machine.execDecOutcomeRead s
  | .txCrcRead => Sys2Proof.Machine.execTxCrcRead s
  | .rxCrcRead => Sys2Proof.Machine.execRxCrcRead s
  | .syncFend => Sys2Proof.Machine.execSyncFend s
  | .syncOther r => Sys2Proof.Machine.execSyncOther r s
  | .fieldFesc => Sys2Proof.Machine.execFieldFesc s
  | .fieldRawFend => Sys2Proof.Machine.execFieldRawFend s
  | .fieldLiteral r => Sys2Proof.Machine.execFieldLiteral r s
  | .escTfend => Sys2Proof.Machine.execEscTfend s
  | .escTfesc => Sys2Proof.Machine.execEscTfesc s
  | .escBad r => Sys2Proof.Machine.execEscBad r s
  | .logAddrByte v => Sys2Proof.Machine.execLogAddrByte v s
  | .logBcastCmd v => Sys2Proof.Machine.execLogBcastCmd v s
  | .logCmd v => Sys2Proof.Machine.execLogCmd v s
  | .logCmdAddrErr v => Sys2Proof.Machine.execLogCmdAddrErr v s
  | .logLen v => Sys2Proof.Machine.execLogLen v s
  | .logLenErr v => Sys2Proof.Machine.execLogLenErr v s
  | .logData v => Sys2Proof.Machine.execLogData v s
  | .logCrc v => Sys2Proof.Machine.execLogCrc v s

end Sys2Proof.Machine
end

