-- ==== Sys2Proof/Machine/Agents.lean ====
section
/-! DEFINITION. What each agent's turn does (R19, R58, R272): a command is decoded and executed, a TX offer is
answered, an RX event is classified and executed, or the block is reset. A turn whose agent has no enabled step
passes, and changes nothing else (R44, R45; log entry 3). -/

namespace Sys2Proof.Machine

/-- A command word on the command port (R43): illegal words are answered `CR_ILLEGAL` (R82), before any other
check (R262). -/
def commandStep (w : CmdWord) (s : State) : Result :=
  match decodeCmd w with
  | .ok i => exec i s
  | .error _ => .next (s.refuse .illegal)

/-- An RX event taken in context `c` (R171). -/
def rxStep (c : WireContext) (e : RxEvent) (s : State) : Result :=
  match e with
  | .byte r => exec (decodeWire s.cfg.maxLen c r) s
  | .timeout => .next (rxTimeout s)
  | .error => .next (rxError s)

/-- The host's turn: its next command word, if it has one. -/
def hostTurn (s : State) : Result :=
  match s.ports.commands with
  | [] => .next s
  | w :: ws => commandStep w { s with ports.commands := ws }

/-- The encoder's turn: the offer, if there is one, meets the transport's answer, if it gives one (R44). -/
def encoderTurn (s : State) : Result :=
  match s.offer, s.ports.answers with
  | some b, a :: as => .next (txStep b a { s with ports.answers := as })
  | _, _ => .next s

/-- The decoder's turn: while it takes events (R45), the transport's next one, if it delivers one. -/
def decoderTurn (s : State) : Result :=
  match s.wireContext, s.ports.events with
  | some c, e :: es => rxStep c e { s with ports.events := es }
  | _, _ => .next s

/-- The turn of an agent (R272). -/
def turn (a : Agent) (s : State) : Result :=
  match a with
  | .host => hostTurn s
  | .encoder => encoderTurn s
  | .decoder => decoderTurn s
  | .reset => .next s.rst

/-- The next turn in the order the environment chose; with no turn left, nothing happens. -/
def nextTurn (s : State) : Result :=
  match s.ports.turns with
  | [] => .next s
  | a :: as => turn a { s with ports.turns := as }

/-! ## The end of a run (R306) -/

/-- The run is over: the host has issued its last command and had its response (a command is one step, R43),
neither operation is in flight, and no `RST` is pending. -/
abbrev State.RunEnded (s : State) : Prop :=
  s.ports.commands = [] ∧ s.encBusy = false ∧ s.decBusy = false ∧ Agent.reset ∉ s.ports.turns

/-- What is observed of a run: the registers, the responses and the bytes emitted. What the transport still holds,
and the rest of what the environment will do, is left out, and so is the model's own count of free values. -/
def State.observation (s : State) : State :=
  { s with
    draws := 0
    ports := { Ports.empty with responses := s.ports.responses, line := s.ports.line } }

/-! ## Placing one instruction -/

/-- A host about to issue the word `w`. -/
def State.withCommand (s : State) (w : CmdWord) : State :=
  { s with
    ports.turns := .host :: s.ports.turns
    ports.commands := w :: s.ports.commands }

/-- A decode in progress in the phase where byte `b` is of the class `tableContext` reads it in, and a transport
about to deliver `b` (log entry 11). -/
def State.withByte (s : State) (b : Byte) : State :=
  let s' :=
    { s with
      ports.turns := .decoder :: s.ports.turns
      ports.events := .byte b :: s.ports.events
      decBusy := true }
  match tableContext b with
  | .sync => { s' with dPhase := .sync, dEsc := false }
  | .field => { s' with dPhase := .field .addrOrCmd, dEsc := false }
  | .escaped => { s' with dPhase := .field .addrOrCmd, dEsc := true }
  | .logical p => { s' with dPhase := .field p, dEsc := false }

/-- The opcode table's word `w` of `nbits` bits, about to be taken. -/
def State.withTableWord (s : State) (nbits w : Nat) : State :=
  if nbits ≤ 8 then s.withByte (BitVec.ofNat 8 w) else s.withCommand (BitVec.ofNat 24 w)

/-! ## Port events in the syntax of R84 -/

def TxAnswer.assembly : TxAnswer → String
  | .ack => "TX_ACK"
  | .fail => "TX_FAIL"

def RxEvent.assembly : RxEvent → String
  | .byte r => "RX " ++ hexByte r
  | .timeout => "RX_TIMEOUT"
  | .error => "RX_ERROR"

end Sys2Proof.Machine
end

