-- ==== Sys2Proof/Machine/Step.lean ====
section
/-! DEFINITION. One step of the machine (R19), and the placing of one instruction where the next step takes it. -/

namespace Sys2Proof.Machine

/-- One step: the next turn (R58, R272). -/
def step (s : State) : Host.Outcome State Fault Refusal := nextTurn s

/-- The state in which the next step runs the opcode table's word `w` of `nbits` bits. -/
def State.withFetchWord (s : State) (nbits w : Nat) : State := s.withTableWord nbits w

end Sys2Proof.Machine
end

