-- ==== Sys2Proof/Machine/HostDriver.lean ====
section
/-! DEFINITION. The host side (45_host_driver.md): the pseudo-instructions of R85 and the procedure `Request`
(R240). It is software around the block (R5), written over the block's commands only, so that end-to-end claims
can be stated. No step of the machine uses it. No `RST` comes while the procedure runs: that is the model's choice
(log entry 18). -/

namespace Sys2Proof.Machine

/-! ## Pseudo-instructions (R85) -/

/-- `CRC_BLOCK s, b1, ..., bk`. -/
def crcBlock (seed : Byte) (bytes : List Byte) : List Instr := .crcInit seed :: bytes.map .crcUpdate

/-- `PKT_LOAD addr, cmd, d0, ..., d(n-1)`. -/
def pktLoad (addr cmd : Byte) (d : List Byte) : List Instr :=
  [.pktSetAddr addr, .pktSetCmd cmd, .pktSetLen (BitVec.ofNat 8 d.length)] ++
    d.zipIdx.map fun x => .pktWrite (BitVec.ofNat 8 x.2) x.1

/-- The host issues one command and has its response (R43). -/
def issue (i : Instr) (s : State) : Option (Response × State) :=
  match encode i with
  | .command w =>
    match commandStep w s with
    | .next t => t.ports.responses.getLast?.map fun r => (r, t)
    | .fault _ => none
    | .refused _ => none
  | .wire _ _ => none

/-- The host issues commands until one is not performed; whether all were (log entry 14). -/
def issueAll : List Instr → State → Option (Bool × State)
  | [], s => some (true, s)
  | i :: is, s => do
    let (r, t) ← issue i s
    if r.code = .ok then issueAll is t else some (false, t)

/-- The state a turn leaves. -/
def afterTurn (r : Result) : Option State :=
  match r with
  | .next t => some t
  | .fault _ => none
  | .refused _ => none

/-- `WAIT_ENC`: poll `STATUS` until bit 0 reads 0, the encoder taking a turn between two polls (log entry 14).
It hangs, with no result, when `polls` polls do not see the end (R297). The encoder alone can end it here: no `RST`
comes between two polls (DESIGN CHOICE, log entry 18). -/
def waitEnc : Nat → State → Option State
  | 0, _ => none
  | polls + 1, s => do
    let (r, t) ← issue .statusRead s
    if r.data.getLsbD 0 then waitEnc polls (← afterTurn (encoderTurn t)) else some t

/-- `WAIT_DEC`: poll `STATUS` until bit 1 reads 0, the decoder taking a turn between two polls. No `RST` comes
between them (DESIGN CHOICE, log entry 18). -/
def waitDec : Nat → State → Option State
  | 0, _ => none
  | polls + 1, s => do
    let (r, t) ← issue .statusRead s
    if r.data.getLsbD 1 then waitDec polls (← afterTurn (decoderTurn t)) else some t

/-- `SEND` is `ENC_START; WAIT_ENC`. -/
def send (polls : Nat) (s : State) : Option State := do
  let (_, t) ← issue .encStart s
  waitEnc polls t

/-- `RECV` is `DEC_START; WAIT_DEC`. -/
def recv (polls : Nat) (s : State) : Option State := do
  let (_, t) ← issue .decStart s
  waitDec polls t

/-! ## Request -/

/-- A host-side packet `(addr, cmd, n, d[0..n-1])` of R240; `n` is the length of `d`. -/
structure HostPacket where
  addr : Byte
  cmd : Byte
  d : List Byte
deriving DecidableEq, Repr

/-- Read the cells `0 .. n-1` (step 8 of R240). -/
def readCells : List Nat → State → Option (List Byte × State)
  | [], s => some ([], s)
  | i :: is, s => do
    let (r, t) ← issue (.pktRead (BitVec.ofNat 8 i)) s
    let (rest, u) ← readCells is t
    some (r.data :: rest, u)

/-- Copy the decoded fields out (step 8 of R240). -/
def copyOut (s : State) : Option (HostPacket × State) := do
  let (a, s1) ← issue .pktGetAddr s
  let (c, s2) ← issue .pktGetCmd s1
  let (n, s3) ← issue .pktGetLen s2
  let (d, s4) ← readCells (List.range n.data.toNat) s3
  some (⟨a.data, c.data, d⟩, s4)

/-- The receive half of `Request` (steps 5 to 9 of R240). Setting the transport's timeout is outside the block
(R245). -/
def requestReply (polls : Nat) (p : HostPacket) (s : State) : Option (Bool × HostPacket × State) := do
  let t ← recv polls s
  let (r, u) ← issue .decOutcomeRead t
  if r.data = 0 then
    let (q, v) ← copyOut u
    some (true, q, v)
  else some (false, p, u)

/-- `Request` (R240): the result, the packet and the state it leaves; none when a wait hangs. A payload of more
than 255 bytes has no length operand, which is a contract violation as any length above `P_MAX_LEN` is (log
entry 17). DESIGN CHOICE: no `RST` comes while the procedure runs, where R290 allows one between any two steps and
R247 says that only a transport duty ends a wait (log entry 18). -/
def request (polls : Nat) (p : HostPacket) (s : State) : Option (Bool × HostPacket × State) :=
  if 255 < p.d.length then some (false, p, s)
  else do
    let (loaded, s1) ← issueAll (pktLoad p.addr p.cmd p.d) s
    if loaded then
      let s2 ← send polls s1
      let (e, s3) ← issue .encOutcomeRead s2
      if e.data ≠ 0 then some (false, p, s3)
      else if p.addr = 0 then some (true, p, s3)
      else requestReply polls p s3
    else some (false, p, s1)

end Sys2Proof.Machine
end

