-- ==== Sys2Proof/Safety.lean ====
section
/-! DEFINITION. What a legal state is (R42 and the ranges of R33 to R37), and the terms in which claims speak of
frames, responses, ended decodes and runs of one agent. -/

namespace Sys2Proof.Machine

/-! ## Legal states -/

/-- The six invariants of R42, in its order. -/
abbrev State.Consistent (s : State) : Prop :=
  ¬(s.encBusy = true ∧ s.decBusy = true) ∧
  s.pktLen.toNat ≤ s.cfg.maxLen ∧
  (s.decBusy = true ↔ s.dPhase ≠ .idle) ∧
  (s.dEsc = true → s.dPhase.isField = true) ∧
  (s.dPhase = .field .data → s.dIdx < s.pktLen.toNat) ∧
  (s.encBusy = true → s.encPtr < s.encWire.length)

/-- The payload cells are in canonical form, and every listed one is a cell of R50. -/
abbrev State.CellsLegal (s : State) : Prop :=
  s.pktData.wf = true ∧ s.pktData.within s.cfg.payloadCap = true

/-- The ranges of the hidden counters: `D_SYNC_CNT` (R36; below the limit while scanning), `D_IDX` (R37),
`ENC_PTR` and `ENC_WIRE` (R33: at most 2n+8 bytes by R77, which takes `P_MAX_LEN < 0xC0`). -/
abbrev State.CountersLegal (s : State) : Prop :=
  s.dSyncCnt ≤ s.cfg.syncLimit ∧
  (s.dPhase = .sync → s.dSyncCnt < s.cfg.syncLimit) ∧
  s.dIdx ≤ s.cfg.maxLen ∧
  s.encPtr ≤ s.encWire.length ∧
  (s.cfg.maxLen < 0xC0 → s.encWire.length ≤ 2 * s.cfg.maxLen + 8)

/-- The legal states. -/
abbrev State.Inv (s : State) : Prop :=
  s.cfg.Valid ∧ s.Consistent ∧ s.CellsLegal ∧ s.CountersLegal

/-- While an encode is in progress, the latched wire image and `TX_CRC` are those of the packet registers (R33,
R62). -/
abbrev State.WireImageCurrent (s : State) : Prop :=
  s.encBusy = true → s.encWire = s.frame.1 ∧ s.txCrc = s.frame.2

/-! ## Frames -/

/-- The host-visible packet registers other than the cells, and the cells, are the same. -/
abbrev SamePacket (s t : State) : Prop :=
  t.pktAddr = s.pktAddr ∧ t.pktCmd = s.pktCmd ∧ t.pktLen = s.pktLen ∧
  ∀ i, t.pktData.read i = s.pktData.read i

/-- The encoder's registers and sequencing state are the same. -/
abbrev SameEncoder (s t : State) : Prop :=
  t.txCrc = s.txCrc ∧ t.encBusy = s.encBusy ∧ t.encOutcome = s.encOutcome ∧ t.encWire = s.encWire ∧
  t.encPtr = s.encPtr

/-- The decoder's registers and sequencing state are the same. -/
abbrev SameDecoder (s t : State) : Prop :=
  t.rxCrc = s.rxCrc ∧ t.decBusy = s.decBusy ∧ t.decOutcome = s.decOutcome ∧ t.dPhase = s.dPhase ∧
  t.dEsc = s.dEsc ∧ t.dSyncCnt = s.dSyncCnt ∧ t.dIdx = s.dIdx

/-- What the environment will do, and the bytes emitted, are the same; only the responses may grow. -/
abbrev SameLine (s t : State) : Prop :=
  t.ports.turns = s.ports.turns ∧ t.ports.commands = s.ports.commands ∧ t.ports.answers = s.ports.answers ∧
  t.ports.events = s.ports.events ∧ t.ports.line = s.ports.line

/-- `s` after a command that gave the response `(code, data)` and did nothing else (R56, R80). -/
abbrev State.replied (s : State) (code : RespCode) (data : Byte) : State :=
  { s with ports.responses := s.ports.responses ++ [⟨code, data⟩] }

/-- A decode has ended with `code` (R174, R266), with the accumulator at `acc`: what is fixed of the state. -/
abbrev DecodeEnded (s t : State) (code : DecOutcome) (acc : Byte) : Prop :=
  t.decBusy = false ∧ t.dPhase = .idle ∧ t.dEsc = false ∧ t.decOutcome = code ∧ t.rxCrc = acc ∧
  t.dSyncCnt = s.dSyncCnt ∧ t.dIdx = s.dIdx ∧
  t.crcAcc = s.crcAcc ∧ SameEncoder s t ∧ t.cfg = s.cfg ∧ t.ports = s.ports

/-! ## Rows of the opcode map -/

/-- A row of R81 with "0" in both operand columns; with any other operand the word is illegal, and its step
responds `CR_ILLEGAL` and changes no state (R82). -/
abbrev RowNoOperand (op : Byte) (i : Instr) : Prop :=
  ∀ a b : Byte,
    (decodeCmd (cmdWord op a b) = if a = 0 ∧ b = 0 then .ok i else .error (.reservedOperand op a b)) ∧
    ∀ s : State, a ≠ 0 ∨ b ≠ 0 → commandStep (cmdWord op a b) s = .next (s.replied .illegal 0x00)

/-- A row of R81 with "0" in operand B's column; with any other operand B the word is illegal, and its step
responds `CR_ILLEGAL` and changes no state (R82). -/
abbrev RowOneOperand (op : Byte) (f : Byte → Instr) : Prop :=
  ∀ a b : Byte,
    (decodeCmd (cmdWord op a b) = if b = 0 then .ok (f a) else .error (.reservedOperand op a b)) ∧
    ∀ s : State, b ≠ 0 → commandStep (cmdWord op a b) s = .next (s.replied .illegal 0x00)

/-- The defined opcodes whose operands are both reserved (R81). -/
def noOperandOpcodes : List Byte :=
  [0x00, 0x03, 0x14, 0x15, 0x16, 0x20, 0x21, 0x30, 0x31, 0x32, 0x33, 0x34]

/-- The defined opcodes whose operand B is reserved (R81). -/
def oneOperandOpcodes : List Byte := [0x01, 0x02, 0x10, 0x11, 0x12, 0x17]

/-- The defined opcodes with two operands (R81). -/
def twoOperandOpcodes : List Byte := [0x13]

/-- The commands that are reads (R80): their response carries a value. -/
def readOpcodes : List Byte :=
  [0x03, 0x14, 0x15, 0x16, 0x17, 0x30, 0x31, 0x32, 0x33, 0x34]

/-! ## The bit-serial forms of the default table (R109) -/

/-- One bit of the bit-serial definition: `if c[0] == 1 then (c >> 1) ^ 0x8C else c >> 1`. -/
def serialBit (c : Byte) : Byte := if c.getLsbD 0 then (c >>> 1) ^^^ 0x8C else c >>> 1

/-- `T(i)` by eight such bits. -/
def serialEntry (i : Byte) : Byte := Nat.iterate serialBit 8 i

/-- One bit of the form that circulates with the Wake protocol, on the pair `(c, b)`. -/
def wakeBit (x : Byte × Byte) : Byte × Byte :=
  (if (x.2 ^^^ x.1).getLsbD 0 then ((x.1 ^^^ 0x18) >>> 1) ||| 0x80 else x.1 >>> 1, x.2 >>> 1)

/-- The update by eight such bits. -/
def wakeUpd (c b : Byte) : Byte := (Nat.iterate wakeBit 8 (c, b)).1

/-! ## Runs of one agent -/

/-- The transport delivers events one after the other; the block takes each while a decode is in progress
(R45, R171), and holds no others. -/
def deliver : List RxEvent → State → Option State
  | [], s => some s
  | e :: es, s =>
    match s.wireContext with
    | none => some s
    | some c =>
      match rxStep c e s with
      | .next t => deliver es t
      | .fault _ => none
      | .refused _ => none

/-- The transport acknowledges `k` offers (R144). -/
def acknowledge : Nat → State → State
  | 0, s => s
  | k + 1, s =>
    match s.offer with
    | some b => acknowledge k (txAck b s)
    | none => s

end Sys2Proof.Machine
end

