-- ==== Sys2Proof/Certificates/Slice0/Obligations.lean ====
section
/-! DEFINITION. The statements about the machine, for the provers. Each docstring says which rule of the spec the
statement formalises. -/

open Sys2Proof Sys2Proof.Machine

/-! ## Encodings -/

/-- Every well-formed instruction is read back from its own words (R79, R81, R87). -/
def Obligations.DecodeEncodeRoundTrip : Prop :=
  ∀ (maxLen : Nat) (i : Instr), i.wellFormed maxLen = true → decode maxLen (encode i) = .ok i

/-- Each word has one meaning: what a word or a byte decodes to is well formed and encodes to nothing else
(R81, R82, R87). -/
def Obligations.DecodedEncodesBack : Prop :=
  ∀ (maxLen : Nat) (e : Encoded) (i : Instr),
    decode maxLen e = .ok i → i.wellFormed maxLen = true ∧ encode i = e

/-- Words written out from the encodings of R81 and bytes from R87, one of each family. -/
def Obligations.WrittenOutWordsDecode : Prop :=
  decodeCmd 0x000000 = .ok .nop ∧
  decodeCmd 0x02C000 = .ok (.crcUpdate 0xC0) ∧
  decodeCmd 0x105B00 = .ok (.pktSetAddr 0x5B) ∧
  decodeCmd 0x1303AB = .ok (.pktWrite 0x03 0xAB) ∧
  decodeCmd 0x200000 = .ok .encStart ∧
  decodeCmd 0x210000 = .ok .decStart ∧
  decodeCmd 0x340000 = .ok .rxCrcRead ∧
  decodeCmd 0x000001 = .error (.reservedOperand 0x00 0x00 0x01) ∧
  decodeCmd 0x350000 = .error (.undefinedOpcode 0x35) ∧
  decodeWire 159 .sync 0xC0 = .syncFend ∧
  decodeWire 159 .field 0xC0 = .fieldRawFend ∧
  decodeWire 159 .escaped 0xDC = .escTfend ∧
  decodeWire 159 (.logical .cmd) 0x80 = .logCmdAddrErr 0x80 ∧
  decodeWire 159 (.logical .len) 0x9F = .logLen 0x9F ∧
  decodeWire 159 (.logical .len) 0xA0 = .logLenErr 0xA0

/-- R82 and R261: which words are illegal, that the step of such a word responds `CR_ILLEGAL` and changes no state,
and that the step of any other word gives one response, which is not `CR_ILLEGAL`. -/
def Obligations.IllegalWordsAreRefused : Prop :=
  (∀ w : CmdWord,
    (∃ e, decodeCmd w = .error e) ↔
      (opOf w ∉ noOperandOpcodes ++ oneOperandOpcodes ++ twoOperandOpcodes) ∨
      (opOf w ∈ noOperandOpcodes ∧ (aOf w ≠ 0 ∨ bOf w ≠ 0)) ∨
      (opOf w ∈ oneOperandOpcodes ∧ bOf w ≠ 0)) ∧
  ((List.range 256).filter fun n =>
      BitVec.ofNat 8 n ∉ noOperandOpcodes ++ oneOperandOpcodes ++ twoOperandOpcodes).length = 237 ∧
  (∀ (w : CmdWord) (s : State), (∃ e, decodeCmd w = .error e) →
    commandStep w s = .next (s.replied .illegal 0x00)) ∧
  (∀ (w : CmdWord) (i : Instr) (s t : State), decodeCmd w = .ok i → commandStep w s = .next t →
    ∃ r : Response, r.code ≠ .illegal ∧ t.ports.responses = s.ports.responses ++ [r])

/-- R87: the class of every byte in every context. -/
def Obligations.WireBytesAreClassified : Prop :=
  ∀ (maxLen : Nat) (b : Byte),
    decodeWire maxLen .sync b = (if b = 0xC0 then .syncFend else .syncOther b) ∧
    decodeWire maxLen .field b =
      (if b = 0xDB then .fieldFesc else if b = 0xC0 then .fieldRawFend else .fieldLiteral b) ∧
    decodeWire maxLen .escaped b =
      (if b = 0xDC then .escTfend else if b = 0xDD then .escTfesc else .escBad b) ∧
    decodeWire maxLen (.logical .addrOrCmd) b =
      (if b &&& 0x80 = 0x80 then .logAddrByte b else .logBcastCmd b) ∧
    decodeWire maxLen (.logical .cmd) b =
      (if b &&& 0x80 = 0x80 then .logCmdAddrErr b else .logCmd b) ∧
    decodeWire maxLen (.logical .len) b = (if b.toNat ≤ maxLen then .logLen b else .logLenErr b) ∧
    decodeWire maxLen (.logical .data) b = .logData b ∧
    decodeWire maxLen (.logical .crc) b = .logCrc b

/-! ## Steps -/

/-- The host's turn runs the instruction its command word decodes to, at the state less that turn and that word
(R43, R79; the lists of turns and words are the model's, log entry 2). -/
def Obligations.StepRunsDecodedCommand : Prop :=
  ∀ (s : State) (w : CmdWord) (i : Instr) (as : List Agent) (ws : List CmdWord),
    s.ports.turns = .host :: as → s.ports.commands = w :: ws → decodeCmd w = .ok i →
    step s = exec i { s with ports.turns := as, ports.commands := ws }

/-- The decoder's turn dispatches the transport's next event as R171 says, at the state less that turn and that
event (the lists of turns and events are the model's, log entry 2). -/
def Obligations.StepDispatchesRxEvent : Prop :=
  ∀ (s : State) (e : RxEvent) (as : List Agent) (es : List RxEvent),
    s.ports.turns = .decoder :: as → s.ports.events = e :: es → s.decBusy = true → s.dPhase ≠ .idle →
    let s' := { s with ports.turns := as, ports.events := es }
    step s =
      match e with
      | .byte r =>
        if s.dPhase = .sync then exec (decodeWire s.cfg.maxLen .sync r) s'
        else if s.dEsc = true then exec (decodeWire s.cfg.maxLen .escaped r) s'
        else if r = FESC then exec .fieldFesc s'
        else if r = FEND then exec .fieldRawFend s'
        else exec (.fieldLiteral r) s'
      | .timeout => .next (terminate .timeout s')
      | .error => .next (terminate .transportError s')

/-- The encoder's turn answers the offer `ENC_WIRE[ENC_PTR]`; a turn of the encoder or the decoder that R44 or R45
gives no step passes and takes nothing (that such a turn passes is the model's choice, log entry 3). -/
def Obligations.PortTurnsFollowBusyFlags : Prop :=
  (∀ (s : State) (b : Byte) (a : TxAnswer) (as : List Agent) (ans : List TxAnswer),
    s.ports.turns = .encoder :: as → s.ports.answers = a :: ans → s.encBusy = true →
    s.encWire[s.encPtr]? = some b →
    step s = .next (txStep b a { s with ports.turns := as, ports.answers := ans })) ∧
  (∀ (s : State) (as : List Agent), s.ports.turns = .encoder :: as → s.encBusy = false →
    step s = .next { s with ports.turns := as }) ∧
  (∀ (s : State) (as : List Agent), s.ports.turns = .decoder :: as → s.decBusy = false →
    step s = .next { s with ports.turns := as })

/-- R48: the state after power-up, at the default parameters. -/
def Obligations.ResetStateValues : Prop :=
  let s := State.reset
  s.crcAcc = s.cfg.seed ∧ s.cfg.seed = 0xDE ∧ s.pktAddr = 0 ∧ s.pktCmd = 0 ∧ s.pktLen = 0 ∧
  (∀ i, s.pktData.read i = 0) ∧ s.txCrc = 0 ∧ s.rxCrc = 0 ∧ s.encBusy = false ∧ s.decBusy = false ∧
  s.encOutcome.number = 8 ∧ s.decOutcome.number = 8 ∧ s.encWire = [] ∧ s.encPtr = 0 ∧
  s.dPhase = .idle ∧ s.dEsc = false ∧ s.dSyncCnt = 0 ∧ s.dIdx = 0

/-- R46, R290 and R292: `RST` in any state puts every register to its value in R48, sends nothing, takes nothing
from the RX port, and leaves events not taken with the transport. That the parameters stay and the draws go on is
the model's (log entry 10). -/
def Obligations.RstStepRestoresReset : Prop :=
  ∀ (s : State) (as : List Agent), s.ports.turns = .reset :: as →
    step s = .next
      { State.resetWith s.cfg with draws := s.draws, ports := { s.ports with turns := as } }

/-- From every legal state a step leads to a legal state: no fault, no refusal (R260), and the invariants of R42
and the ranges of R33, R36, R37 and R50 hold again. -/
def Obligations.StepKeepsLegalStates : Prop :=
  ∀ s : State, s.Inv → ∃ t, step s = .next t ∧ t.Inv

/-- The state after reset is legal, for every admissible choice of the parameters. -/
def Obligations.ResetStateIsLegal : Prop :=
  State.reset.Inv ∧ State.reset.WireImageCurrent ∧
  ∀ c : Config, c.Valid → (State.resetWith c).Inv ∧ (State.resetWith c).WireImageCurrent

/-- R33 and R62: while an encode is in progress, the latched image and `TX_CRC` remain those of the packet
registers, whatever step is taken. -/
def Obligations.StepKeepsWireImageCurrent : Prop :=
  ∀ s t : State, s.Inv → s.WireImageCurrent → step s = .next t → t.WireImageCurrent

/-- R2, R38: no step changes the parameters, the CRC table among them. -/
def Obligations.StepKeepsParameters : Prop :=
  ∀ s t : State, step s = .next t → t.cfg = s.cfg

/-! ## The CRC engine -/

/-- R105: `CRC_INIT seed`, in every state, busy or not. -/
def Obligations.CrcInitLoadsSeed : Prop :=
  RowOneOperand 0x01 .crcInit ∧
  ∀ (seed : Byte) (s : State),
    exec (.crcInit seed) s = .next ({ s with crcAcc := seed }.replied .ok 0x00)

/-- R106: `CRC_UPDATE byte`, in every state, busy or not. -/
def Obligations.CrcUpdateFoldsByte : Prop :=
  RowOneOperand 0x02 .crcUpdate ∧
  ∀ (byte : Byte) (s : State),
    exec (.crcUpdate byte) s = .next ({ s with crcAcc := T s.cfg (s.crcAcc ^^^ byte) }.replied .ok 0x00)

/-- R107: `CRC_READ`. -/
def Obligations.CrcReadReturnsAccumulator : Prop :=
  RowNoOperand 0x03 .crcRead ∧
  ∀ s : State, exec .crcRead s = .next (s.replied .ok s.crcAcc)

/-- R104: folding in the accumulator's own value drives it to 0x00, for every admissible table. -/
def Obligations.FoldingOwnValueGivesZero : Prop :=
  (∀ (c : Config) (acc : Byte), upd c acc acc = T c 0) ∧
  ∀ (c : Config) (seed : Byte) (bytes : List Byte), c.Valid →
    fold c seed (bytes ++ [fold c seed bytes]) = 0x00

/-- R109: the default table is the bit-serial one, and the update is the bit-serial form of the Wake protocol, for
all 65,536 inputs. The table is the spec's default from general knowledge (log entry 13). -/
def Obligations.DefaultTableIsBitSerial : Prop :=
  (∀ i : Byte, T Config.default i = serialEntry i) ∧
  (∀ c b : Byte, upd Config.default c b = wakeUpd c b)

/-- R108: the default table is linear over exclusive or and a permutation, so a fold gives 0x00 exactly on the
accumulator's own value. The table is the spec's default from general knowledge (log entry 13). -/
def Obligations.DefaultTableIsLinearPermutation : Prop :=
  (∀ x y : Byte, T Config.default (x ^^^ y) = T Config.default x ^^^ T Config.default y) ∧
  Function.Bijective (T Config.default) ∧
  (∀ c b : Byte, upd Config.default c b = 0x00 ↔ b = c)

/-- R21: a step that changes `CRC_ACC` is a reset, a `CRC_INIT` or a `CRC_UPDATE`. -/
def Obligations.OnlyCrcCommandsWriteAccumulator : Prop :=
  ∀ s t : State, step s = .next t → t.crcAcc ≠ s.crcAcc →
    s.ports.turns.head? = some .reset ∨
    (s.ports.turns.head? = some .host ∧
      ∃ (w : CmdWord) (x : Byte), s.ports.commands.head? = some w ∧
        (decodeCmd w = .ok (.crcInit x) ∨ decodeCmd w = .ok (.crcUpdate x)))

/-- R303: `CRC_ACC` has no influence on anything but the three commands of the CRC engine: two states that differ
in `CRC_ACC` alone still differ in `CRC_ACC` alone after any other instruction. -/
def Obligations.AccumulatorInfluencesNothingElse : Prop :=
  ∀ (i : Instr) (s t : State) (v : Byte),
    i ≠ .crcRead → (∀ x, i ≠ .crcInit x) → (∀ x, i ≠ .crcUpdate x) →
    exec i s = .next t → exec i { s with crcAcc := v } = .next { t with crcAcc := v }

/-! ## Packet registers -/

/-- R120: `PKT_SET_ADDR addr`. -/
def Obligations.PktSetAddrWritesAddress : Prop :=
  RowOneOperand 0x10 .pktSetAddr ∧
  ∀ (a : Byte) (s : State),
    (s.encBusy = false → s.decBusy = false → a.toNat ≤ 0x7F →
      exec (.pktSetAddr a) s = .next ({ s with pktAddr := BitVec.ofNat 7 a.toNat }.replied .ok 0x00)) ∧
    (s.encBusy = true ∨ s.decBusy = true → exec (.pktSetAddr a) s = .next (s.replied .busy 0x00)) ∧
    (s.encBusy = false → s.decBusy = false → 0x7F < a.toNat →
      exec (.pktSetAddr a) s = .next (s.replied .range 0x00))

/-- R121: `PKT_SET_CMD cmd`, for every value of the command. -/
def Obligations.PktSetCmdWritesCommand : Prop :=
  RowOneOperand 0x11 .pktSetCmd ∧
  ∀ (c : Byte) (s : State),
    (s.encBusy = false → s.decBusy = false →
      exec (.pktSetCmd c) s = .next ({ s with pktCmd := c }.replied .ok 0x00)) ∧
    (s.encBusy = true ∨ s.decBusy = true → exec (.pktSetCmd c) s = .next (s.replied .busy 0x00))

/-- R122: `PKT_SET_LEN n`; a length above `P_MAX_LEN` is refused, not clamped. -/
def Obligations.PktSetLenWritesLength : Prop :=
  RowOneOperand 0x12 .pktSetLen ∧
  ∀ (n : Byte) (s : State),
    (s.encBusy = false → s.decBusy = false → n.toNat ≤ s.cfg.maxLen →
      exec (.pktSetLen n) s = .next ({ s with pktLen := n }.replied .ok 0x00)) ∧
    (s.encBusy = true ∨ s.decBusy = true → exec (.pktSetLen n) s = .next (s.replied .busy 0x00)) ∧
    (s.encBusy = false → s.decBusy = false → s.cfg.maxLen < n.toNat →
      exec (.pktSetLen n) s = .next (s.replied .range 0x00))

/-- R123: `PKT_WRITE index, data`: the one cell is written, and every other cell reads as before. The premise that
the cells are in canonical form is part of the legal states (StepKeepsLegalStates). -/
def Obligations.PktWriteStoresOneCell : Prop :=
  (∀ a b, decodeCmd (cmdWord 0x13 a b) = .ok (.pktWrite a b)) ∧
  ∀ (i d : Byte) (s : State),
    (s.pktData.wf = true → s.encBusy = false → s.decBusy = false → i.toNat < s.cfg.payloadCap →
      ∃ m : Memory,
        exec (.pktWrite i d) s = .next ({ s with pktData := m }.replied .ok 0x00) ∧
        ∀ j, m.read j = if j = i.toNat then d else s.pktData.read j) ∧
    (s.encBusy = true ∨ s.decBusy = true → exec (.pktWrite i d) s = .next (s.replied .busy 0x00)) ∧
    (s.encBusy = false → s.decBusy = false → s.cfg.payloadCap ≤ i.toNat →
      exec (.pktWrite i d) s = .next (s.replied .range 0x00))

/-- R124 to R126: the three register reads; allowed during an encode, refused during a decode. -/
def Obligations.PktGetReadsRegister : Prop :=
  RowNoOperand 0x14 .pktGetAddr ∧ RowNoOperand 0x15 .pktGetCmd ∧ RowNoOperand 0x16 .pktGetLen ∧
  ∀ s : State,
    (s.decBusy = false →
      exec .pktGetAddr s = .next (s.replied .ok (BitVec.ofNat 8 s.pktAddr.toNat)) ∧
      exec .pktGetCmd s = .next (s.replied .ok s.pktCmd) ∧
      exec .pktGetLen s = .next (s.replied .ok s.pktLen)) ∧
    (s.decBusy = true →
      exec .pktGetAddr s = .next (s.replied .busy 0x00) ∧
      exec .pktGetCmd s = .next (s.replied .busy 0x00) ∧
      exec .pktGetLen s = .next (s.replied .busy 0x00))

/-- R127: `PKT_READ index`. -/
def Obligations.PktReadReadsOneCell : Prop :=
  RowOneOperand 0x17 .pktRead ∧
  ∀ (i : Byte) (s : State),
    (s.decBusy = false → i.toNat < s.cfg.payloadCap →
      exec (.pktRead i) s = .next (s.replied .ok (s.pktData.read i.toNat))) ∧
    (s.decBusy = true → exec (.pktRead i) s = .next (s.replied .busy 0x00)) ∧
    (s.decBusy = false → s.cfg.payloadCap ≤ i.toNat →
      exec (.pktRead i) s = .next (s.replied .range 0x00))

/-! ## The encoder -/

/-- R71, R74, R75, R141 and R142: `EncodeFrame` written out from the rules. -/
def Obligations.EncodeFrameLayout : Prop :=
  ∀ (c : Config) (addr : BitVec 7) (cmd n : Byte) (d : List Byte),
    let l : List Byte :=
      (if addr = 0 then [] else [BitVec.ofNat 8 (0x80 + addr.toNat)]) ++ cmd :: n :: d
    let crc : Byte := (if c.fendInCrc then 0xC0 :: l else l).foldl (fun acc b => T c (acc ^^^ b)) c.seed
    encodeFrame c addr cmd n d =
      (0xC0 :: (l ++ [crc]).flatMap fun b =>
        if b = 0xC0 then [0xDB, 0xDC] else if b = 0xDB then [0xDB, 0xDD] else [b],
       crc)

/-- R143: `ENC_START` latches the frame of the packet registers and starts the encode; it is refused while either
operation is in progress. The premise `PKT_LEN <= P_MAX_LEN` is R42's. -/
def Obligations.EncStartLatchesFrame : Prop :=
  RowNoOperand 0x20 .encStart ∧
  ∀ s : State,
    (s.encBusy = false → s.decBusy = false → s.cfg.Valid → s.pktLen.toNat ≤ s.cfg.maxLen →
      let f := encodeFrame s.cfg s.pktAddr s.pktCmd s.pktLen
        ((List.range s.pktLen.toNat).map fun i => s.pktData.read i)
      exec .encStart s =
        .next ({ s with encWire := f.1, encPtr := 0, txCrc := f.2, encBusy := true }.replied .ok 0x00)) ∧
    (s.encBusy = true ∨ s.decBusy = true → exec .encStart s = .next (s.replied .busy 0x00))

/-- R144: `TX_ACK` emits the offered byte; the last one ends the encode `Ok`. Without an encode in progress nothing
is offered. -/
def Obligations.TxAckEmitsOfferedByte : Prop :=
  (∀ s : State, s.encBusy = false → s.offer = none) ∧
  ∀ (s : State) (b : Byte), s.encBusy = true → s.encWire[s.encPtr]? = some b →
    s.offer = some b ∧
    txStep b .ack s =
      { s with
        encPtr := s.encPtr + 1
        ports.line := s.ports.line ++ [b]
        encBusy := decide (s.encPtr + 1 ≠ s.encWire.length)
        encOutcome := if s.encPtr + 1 = s.encWire.length then .ok else s.encOutcome }

/-- R145 and R267: `TX_FAIL` ends the encode `TransportError`; `ENC_PTR` and `TX_CRC` keep their values and
nothing is emitted. -/
def Obligations.TxFailAbortsEncode : Prop :=
  ∀ (s : State) (b : Byte), s.offer = some b →
    s.encBusy = true ∧ txStep b .fail s = { s with encBusy := false, encOutcome := .transportError }

/-- R76.1 to R76.3: a wire frame starts with `FEND`, has no other raw `FEND`, and every `FESC` in it is followed
by a transposed code. -/
def Obligations.FrameHasOneMarker : Prop :=
  ∀ (c : Config) (addr : BitVec 7) (cmd n : Byte) (d : List Byte),
    let w := (encodeFrame c addr cmd n d).1
    w[0]? = some FEND ∧
    (∀ i, w[i + 1]? ≠ some FEND) ∧
    (∀ i, w[i]? = some FESC → w[i + 1]? = some TFEND ∨ w[i + 1]? = some TFESC)

/-- R76.5: stuffing is undone by destuffing, and nothing else destuffs to the same bytes. -/
def Obligations.StuffingIsInverted : Prop :=
  (∀ bs : List Byte, destuff (stuffAll bs) = some bs) ∧
  (∀ ws bs : List Byte, destuff ws = some bs → ws = stuffAll bs)

/-- R77: the length of a wire frame, for lengths below the markers. -/
def Obligations.FrameLengthIsBounded : Prop :=
  ∀ (c : Config) (addr : BitVec 7) (cmd n : Byte) (d : List Byte),
    n.toNat = d.length → d.length < 0xC0 →
    let len := (encodeFrame c addr cmd n d).1.length
    d.length + 4 ≤ len ∧ len ≤ 2 * d.length + 8 ∧ (cmd.toNat ≤ 0x7F → len ≤ 2 * d.length + 7)

/-- R144 and R146: from the start of an encode, `k` acknowledgements emit exactly the first `k` bytes of the wire
image, and the encode ends, `Ok`, with the last. -/
def Obligations.AcknowledgedEncodeEmitsFrame : Prop :=
  ∀ (s : State) (k : Nat), s.encBusy = true → s.encPtr = 0 → k ≤ s.encWire.length → 0 < k →
    let t := acknowledge k s
    t.ports.line = s.ports.line ++ s.encWire.take k ∧ t.encPtr = k ∧ t.encWire = s.encWire ∧
    (t.encBusy = true ↔ k < s.encWire.length) ∧
    (k = s.encWire.length → t.encOutcome = .ok)

/-! ## The decoder -/

/-- R170: `DEC_START`. -/
def Obligations.DecStartBeginsScan : Prop :=
  RowNoOperand 0x21 .decStart ∧
  ∀ s : State,
    (s.encBusy = false → s.decBusy = false →
      exec .decStart s =
        .next ({ s with
            rxCrc := s.cfg.seed, dPhase := .sync, dEsc := false, dSyncCnt := 0, dIdx := 0,
            decBusy := true }.replied .ok 0x00)) ∧
    (s.encBusy = true ∨ s.decBusy = true → exec .decStart s = .next (s.replied .busy 0x00))

/-- R172 and R173: a timeout or a failed read ends the decode in every phase, with the accumulator as it is. -/
def Obligations.TimeoutAndErrorEndDecode : Prop :=
  ∀ s : State, s.decBusy = true → s.dPhase ≠ .idle → ∃ c, s.wireContext = some c ∧
    (∃ t, rxStep c .timeout s = .next t ∧ DecodeEnded s t .timeout s.rxCrc) ∧
    (∃ t, rxStep c .error s = .next t ∧ DecodeEnded s t .transportError s.rxCrc)

/-- R175: a raw byte in `SYNC` is counted; `FEND` starts the fields, and the `P_SYNC_LIMIT`-th byte that is not
`FEND` ends the decode. -/
def Obligations.SyncScansForMarker : Prop :=
  ∀ s : State, s.decBusy = true → s.dPhase = .sync →
    exec .syncFend s = .next
      { s with
        dSyncCnt := s.dSyncCnt + 1
        rxCrc := if s.cfg.fendInCrc then T s.cfg (s.rxCrc ^^^ 0xC0) else s.rxCrc
        dPhase := .field .addrOrCmd } ∧
    ∀ r : Byte, r ≠ 0xC0 →
      (s.dSyncCnt + 1 ≠ s.cfg.syncLimit →
        exec (.syncOther r) s = .next { s with dSyncCnt := s.dSyncCnt + 1 }) ∧
      (s.dSyncCnt + 1 = s.cfg.syncLimit →
        ∃ t, exec (.syncOther r) s = .next t ∧
          DecodeEnded { s with dSyncCnt := s.dSyncCnt + 1 } t .syncError s.rxCrc)

/-- R176: the byte after `FESC`: the two transposed codes are the logical bytes they stand for, in the current
phase, and any other byte is a `StaffingError`, folded by nothing. The premise on the payload index is R42's. -/
def Obligations.EscapePairsAreUndone : Prop :=
  ∀ (s : State) (p : FieldPhase), s.Inv → s.decBusy = true → s.dPhase = .field p → s.dEsc = true →
    let s' := { s with dEsc := false }
    (∃ t, exec .escTfend s = .next t ∧ exec (decodeWire s.cfg.maxLen (.logical p) 0xC0) s' = .next t) ∧
    (∃ t, exec .escTfesc s = .next t ∧ exec (decodeWire s.cfg.maxLen (.logical p) 0xDB) s' = .next t) ∧
    ∀ r : Byte, r ≠ 0xDC → r ≠ 0xDD →
      ∃ t, exec (.escBad r) s = .next t ∧ DecodeEnded s t .staffingError s.rxCrc

/-- R177: a raw `FESC` starts a pair; it is not folded and no field position advances. -/
def Obligations.EscapePrefixIsNotFolded : Prop :=
  ∀ (s : State) (p : FieldPhase), s.decBusy = true → s.dPhase = .field p → s.dEsc = false →
    exec .fieldFesc s = .next { s with dEsc := true }

/-- R178: a raw `FEND` inside a frame, for both values of `P_MIDFRAME_FEND`. -/
def Obligations.RawMarkerInsideFrame : Prop :=
  ∀ (s : State) (p : FieldPhase), s.Inv → s.decBusy = true → s.dPhase = .field p → s.dEsc = false →
    (s.cfg.midframeFend = .data →
      ∃ t, exec .fieldRawFend s = .next t ∧
        exec (decodeWire s.cfg.maxLen (.logical p) 0xC0) s = .next t) ∧
    (s.cfg.midframeFend = .resync →
      exec .fieldRawFend s = .next
        { s with
          rxCrc := if s.cfg.fendInCrc then T s.cfg (s.cfg.seed ^^^ 0xC0) else s.cfg.seed
          dPhase := .field .addrOrCmd
          dIdx := 0 })

/-- R179: a literal byte is a logical byte of the current phase, and a logical byte is folded before it is
interpreted, whatever becomes of it. -/
def Obligations.LogicalBytesAreFoldedFirst : Prop :=
  ∀ (s : State) (p : FieldPhase) (v : Byte), s.Inv → s.decBusy = true → s.dPhase = .field p →
    ∃ t, exec (decodeWire s.cfg.maxLen (.logical p) v) s = .next t ∧
      t.rxCrc = T s.cfg (s.rxCrc ^^^ v) ∧
      (s.dEsc = false → v ≠ 0xC0 → v ≠ 0xDB → exec (.fieldLiteral v) s = .next t)

/-- R180: the logical byte in `ADDR_OR_CMD`. -/
def Obligations.AddressOrCommandByte : Prop :=
  ∀ (s : State) (v : Byte), s.decBusy = true → s.dPhase = .field .addrOrCmd →
    (0x80 ≤ v.toNat →
      exec (.logAddrByte v) s = .next
        { s with
          rxCrc := T s.cfg (s.rxCrc ^^^ v)
          pktAddr := BitVec.ofNat 7 (v.toNat - 0x80)
          dPhase := .field .cmd }) ∧
    (v.toNat < 0x80 →
      exec (.logBcastCmd v) s = .next
        { s with
          rxCrc := T s.cfg (s.rxCrc ^^^ v)
          pktAddr := 0
          pktCmd := v
          dPhase := .field .len })

/-- R181: the logical byte in `CMD`. -/
def Obligations.CommandByteAfterAddress : Prop :=
  ∀ (s : State) (v : Byte), s.decBusy = true → s.dPhase = .field .cmd →
    (v.toNat < 0x80 →
      exec (.logCmd v) s = .next
        { s with rxCrc := T s.cfg (s.rxCrc ^^^ v), pktCmd := v, dPhase := .field .len }) ∧
    (0x80 ≤ v.toNat →
      ∃ t, exec (.logCmdAddrErr v) s = .next t ∧
        DecodeEnded s t .addressError (T s.cfg (s.rxCrc ^^^ v)))

/-- R182: the logical byte in `LEN`. -/
def Obligations.LengthByte : Prop :=
  ∀ (s : State) (v : Byte), s.decBusy = true → s.dPhase = .field .len →
    (v.toNat ≤ s.cfg.maxLen →
      exec (.logLen v) s = .next
        { s with
          rxCrc := T s.cfg (s.rxCrc ^^^ v)
          pktLen := v
          dIdx := 0
          dPhase := if v = 0 then .field .crc else .field .data }) ∧
    (s.cfg.maxLen < v.toNat →
      ∃ t, exec (.logLenErr v) s = .next t ∧
        DecodeEnded s t .lengthError (T s.cfg (s.rxCrc ^^^ v)))

/-- R183: a payload byte fills cell `D_IDX`, and every other cell reads as before. The premises that the
cells are in canonical form and that the cell exists hold in every legal state (R42, StepKeepsLegalStates). -/
def Obligations.PayloadByteFillsCell : Prop :=
  ∀ (s : State) (v : Byte), s.pktData.wf = true → s.decBusy = true → s.dPhase = .field .data → s.dIdx < s.cfg.payloadCap →
    ∃ m : Memory,
      exec (.logData v) s = .next
        { s with
          rxCrc := T s.cfg (s.rxCrc ^^^ v)
          pktData := m
          dIdx := s.dIdx + 1
          dPhase := if s.dIdx + 1 = s.pktLen.toNat then .field .crc else .field .data } ∧
      ∀ j, m.read j = if j = s.dIdx then v else s.pktData.read j

/-- R184 and R186: the checksum byte decides; after `Ok` the fields and the cells below `PKT_LEN` stand. The
premise that the cells are in canonical form is part of the legal states (StepKeepsLegalStates). -/
def Obligations.ChecksumByteDecides : Prop :=
  ∀ (s : State) (v : Byte), s.pktData.wf = true → s.decBusy = true → s.dPhase = .field .crc →
    let acc := T s.cfg (s.rxCrc ^^^ v)
    (acc = 0 →
      ∃ t, exec (.logCrc v) s = .next t ∧ DecodeEnded s t .ok 0x00 ∧
        t.pktAddr = s.pktAddr ∧ t.pktCmd = s.pktCmd ∧ t.pktLen = s.pktLen ∧
        ∀ i, i < s.pktLen.toNat → t.pktData.read i = s.pktData.read i) ∧
    (acc ≠ 0 → ∃ t, exec (.logCrc v) s = .next t ∧ DecodeEnded s t .checksumError acc)

/-- R174, R185 and R186: how a decode ends. After a failure the packet registers hold free values, of which the
length is at most `P_MAX_LEN`; after `Ok` only the cells from `PKT_LEN` on do. Cells past the capacity are never
touched. The premises hold in every legal state (StepKeepsLegalStates). -/
def Obligations.TerminateLeavesPacketFree : Prop :=
  ∀ (s : State) (code : DecOutcome), s.cfg.Valid → s.pktData.wf = true →
    DecodeEnded s (terminate code s) code s.rxCrc ∧
    (code ≠ .ok → (terminate code s).pktLen.toNat ≤ s.cfg.maxLen ∧
      ∀ i, s.cfg.payloadCap ≤ i → (terminate code s).pktData.read i = s.pktData.read i) ∧
    (code = .ok →
      (terminate code s).pktAddr = s.pktAddr ∧ (terminate code s).pktCmd = s.pktCmd ∧
      (terminate code s).pktLen = s.pktLen ∧
      ∀ i, i < s.pktLen.toNat ∨ s.cfg.payloadCap ≤ i →
        (terminate code s).pktData.read i = s.pktData.read i)

/-- R27, R184, R263: a step that ends a decode `Ok` leaves `RX_CRC` at 0x00. -/
def Obligations.OkDecodeHasZeroResidue : Prop :=
  ∀ s t : State, step s = .next t → s.decBusy = true → t.decBusy = false → t.decOutcome = .ok →
    t.rxCrc = 0x00

/-- R188: what the encoder makes of a packet with `cmd <= 0x7F`, the decoder reads back, after any bytes that are
not `FEND` and fit the scan: for every admissible table, both values of `P_FEND_IN_CRC` and both of
`P_MIDFRAME_FEND`. Every event is taken, and the last one ends the decode. -/
def Obligations.EncodedFrameDecodesBack : Prop :=
  ∀ (s : State) (addr : BitVec 7) (cmd : Byte) (d junk : List Byte),
    s.cfg.Valid → s.pktData.wf = true → s.encBusy = false → s.decBusy = false → cmd.toNat ≤ 0x7F →
    d.length ≤ s.cfg.maxLen → FEND ∉ junk → junk.length + 1 ≤ s.cfg.syncLimit →
    let w := (encodeFrame s.cfg addr cmd (BitVec.ofNat 8 d.length) d).1
    let events := (junk ++ w).map RxEvent.byte
    ∃ t u, exec .decStart s = .next t ∧ deliver events t = some u ∧
      DecodeEnded { s with dSyncCnt := junk.length + 1, dIdx := d.length,
                           ports.responses := s.ports.responses ++ [⟨.ok, 0⟩] } u .ok 0x00 ∧
      u.pktAddr = addr ∧ u.pktCmd = cmd ∧ u.pktLen.toNat = d.length ∧
      u.pktData.payload d.length = d ∧
      ∀ k, k < events.length → ∃ v, deliver (events.take k) t = some v ∧ v.decBusy = true

/-- R189: under `P_MIDFRAME_FEND = DATA` a decode takes at most `P_SYNC_LIMIT + 2·(P_MAX_LEN + 4)` events,
whatever they are. -/
def Obligations.DecodeEndsWithinBound : Prop :=
  ∀ (s : State) (events : List RxEvent),
    s.Inv → s.cfg.midframeFend = .data → s.encBusy = false → s.decBusy = false →
    s.cfg.syncLimit + 2 * (s.cfg.maxLen + 4) ≤ events.length →
    ∃ t u, exec .decStart s = .next t ∧ deliver events t = some u ∧ u.decBusy = false

/-! ## Status and diagnostics -/

/-- R220 and R221: `NOP` and `STATUS_READ`, in every state; 0x03 does not appear where R42 holds. -/
def Obligations.NopAndStatusAlwaysAnswer : Prop :=
  RowNoOperand 0x00 .nop ∧ RowNoOperand 0x30 .statusRead ∧
  ∀ s : State,
    let status := BitVec.ofNat 8 ((if s.decBusy then 2 else 0) + (if s.encBusy then 1 else 0))
    exec .nop s = .next (s.replied .ok 0x00) ∧
    exec .statusRead s = .next (s.replied .ok status) ∧
    (s.Consistent → status ≠ 0x03)

/-- R222 and R223: the outcome reads, with the numbers of R263 and R264. -/
def Obligations.OutcomeReadsReturnOutcome : Prop :=
  RowNoOperand 0x31 .encOutcomeRead ∧ RowNoOperand 0x32 .decOutcomeRead ∧
  ∀ s : State,
    (s.encBusy = false → exec .encOutcomeRead s = .next (s.replied .ok
      (match s.encOutcome with | .ok => 0 | .transportError => 1 | .none => 8))) ∧
    (s.encBusy = true → exec .encOutcomeRead s = .next (s.replied .busy 0x00)) ∧
    (s.decBusy = false → exec .decOutcomeRead s = .next (s.replied .ok
      (match s.decOutcome with
        | .ok => 0 | .transportError => 1 | .syncError => 2 | .staffingError => 3 | .addressError => 4
        | .checksumError => 5 | .timeout => 6 | .lengthError => 7 | .none => 8))) ∧
    (s.decBusy = true → exec .decOutcomeRead s = .next (s.replied .busy 0x00))

/-- R224 and R225: the checksum reads. -/
def Obligations.CrcReadsReturnChecksums : Prop :=
  RowNoOperand 0x33 .txCrcRead ∧ RowNoOperand 0x34 .rxCrcRead ∧
  ∀ s : State,
    (s.encBusy = false → exec .txCrcRead s = .next (s.replied .ok s.txCrc)) ∧
    (s.encBusy = true → exec .txCrcRead s = .next (s.replied .busy 0x00)) ∧
    (s.decBusy = false → exec .rxCrcRead s = .next (s.replied .ok s.rxCrc)) ∧
    (s.decBusy = true → exec .rxCrcRead s = .next (s.replied .busy 0x00))

/-! ## Whole-machine rules -/

/-- R80: every command word gives exactly one response; its data is 0x00 unless the command is a read that was
performed; and a command whose code is not `CR_OK` changes no state. The premise keeps to states where every
command completes (R42). -/
def Obligations.EveryCommandRespondsOnce : Prop :=
  ∀ (w : CmdWord) (s : State), s.Inv →
    ∃ t code data, commandStep w s = .next t ∧
      t.ports.responses = s.ports.responses ++ [⟨code, data⟩] ∧
      (data ≠ 0x00 → code = .ok ∧ opOf w ∈ readOpcodes) ∧
      (code ≠ .ok ∨ opOf w ∈ readOpcodes → t = s.replied code data)

/-- R269: no command ends an operation in flight, emits a byte, or takes an RX event. -/
def Obligations.NoCommandEndsOperation : Prop :=
  ∀ (w : CmdWord) (s t : State), commandStep w s = .next t →
    (s.encBusy = true → t.encBusy = true ∧ SameEncoder s t ∧ SamePacket s t) ∧
    (s.decBusy = true → t.decBusy = true ∧ SameDecoder s t ∧ SamePacket s t) ∧
    SameLine s t

/-! ## The host procedure -/

/-- R241: a `Request` to address 0 takes no RX event and starts no decode. That no `RST` comes while it runs is the
model's choice (log entry 18). -/
def Obligations.BroadcastRequestReadsNothing : Prop :=
  ∀ (polls : Nat) (p q : HostPacket) (s t : State) (r : Bool), p.addr = 0 →
    request polls p s = some (r, q, t) →
    t.ports.events = s.ports.events ∧ SameDecoder s t ∧ q = p

/-- R243: a `Request` that returns true has ended its encode `Ok`, and its decode too unless the address is 0. That
no `RST` comes while it runs, which would set the outcomes to `None`, is the model's choice (log entry 18). -/
def Obligations.RequestTrueMeansBothOk : Prop :=
  ∀ (polls : Nat) (p q : HostPacket) (s t : State),
    request polls p s = some (true, q, t) →
    t.encBusy = false ∧ t.encOutcome = .ok ∧
    (p.addr ≠ 0 → t.decBusy = false ∧ t.decOutcome = .ok)

/-! ## The end of a run -/

/-- R306: a run that has ended stays ended, whatever turns are left, and what is observed of it does not change (the
lists of turns and words are the model's, log entry 2; the turns left pass by log entry 3; how the end is read off them is log entry 19). -/
def Obligations.EndedRunStaysAsObserved : Prop :=
  ∀ s t : State, s.RunEnded → step s = .next t → t.RunEnded ∧ t.observation = s.observation
end

