-- ==== Sys2Proof/Laws/Decode.lean ====
section
/-! SUPPORT. The fields of a command word, and the classes of a byte. -/

namespace Sys2Proof

@[simp] theorem opOf_cmdWord (op a b : Byte) : opOf (cmdWord op a b) = op := by
  apply BitVec.eq_of_getLsbD_eq
  intro i hi
  simp only [opOf, cmdWord, BitVec.getLsbD_extractLsb', BitVec.getLsbD_append]
  have h1 : ¬ 16 + i < 8 := by omega
  have h2 : ¬ 16 + i - 8 < 8 := by omega
  have h3 : 16 + i - 8 - 8 = i := by omega
  simp [hi, h1, h2, h3]

@[simp] theorem aOf_cmdWord (op a b : Byte) : aOf (cmdWord op a b) = a := by
  apply BitVec.eq_of_getLsbD_eq
  intro i hi
  simp only [aOf, cmdWord, BitVec.getLsbD_extractLsb', BitVec.getLsbD_append]
  have h1 : ¬ 8 + i < 8 := by omega
  have h3 : 8 + i - 8 = i := by omega
  simp [hi, h1, h3]

@[simp] theorem bOf_cmdWord (op a b : Byte) : bOf (cmdWord op a b) = b := by
  apply BitVec.eq_of_getLsbD_eq
  intro i hi
  simp only [bOf, cmdWord, BitVec.getLsbD_extractLsb', BitVec.getLsbD_append, Nat.zero_add]
  simp [hi]

/-- A word is its three fields (R79). -/
theorem cmdWord_fields (w : CmdWord) : cmdWord (opOf w) (aOf w) (bOf w) = w := by
  apply BitVec.eq_of_getLsbD_eq
  intro i hi
  simp only [opOf, aOf, bOf, cmdWord, BitVec.getLsbD_extractLsb', BitVec.getLsbD_append]
  by_cases h1 : i < 8
  · simp [h1]
  · by_cases h2 : i - 8 < 8
    · have h3 : 8 + (i - 8) = i := by omega
      simp [h1, h2, h3]
    · have h3 : 16 + (i - 8 - 8) = i := by omega
      have h4 : i - 8 - 8 < 8 := by omega
      simp [h1, h2, h3, h4]

/-- A word with given fields decodes by its row. -/
theorem decodeCmd_cmdWord (op a b : Byte) : decodeCmd (cmdWord op a b) = decodeFields op a b := by
  simp [decodeCmd]

end Sys2Proof
end

