-- ==== Sys2Proof/Laws/State.lean ====
section
/-! SUPPORT. What each named update of the state leaves in each field: one lemma per field and update, so that no
later proof unfolds an update. -/

namespace Sys2Proof.Machine

/-! ## respond -/

@[simp] theorem State.respond_crcAcc (s : State) (code : RespCode) (data : Byte) : (s.respond code data).crcAcc = s.crcAcc := rfl
@[simp] theorem State.respond_pktAddr (s : State) (code : RespCode) (data : Byte) : (s.respond code data).pktAddr = s.pktAddr := rfl
@[simp] theorem State.respond_pktCmd (s : State) (code : RespCode) (data : Byte) : (s.respond code data).pktCmd = s.pktCmd := rfl
@[simp] theorem State.respond_pktLen (s : State) (code : RespCode) (data : Byte) : (s.respond code data).pktLen = s.pktLen := rfl
@[simp] theorem State.respond_pktData (s : State) (code : RespCode) (data : Byte) : (s.respond code data).pktData = s.pktData := rfl
@[simp] theorem State.respond_txCrc (s : State) (code : RespCode) (data : Byte) : (s.respond code data).txCrc = s.txCrc := rfl
@[simp] theorem State.respond_rxCrc (s : State) (code : RespCode) (data : Byte) : (s.respond code data).rxCrc = s.rxCrc := rfl
@[simp] theorem State.respond_encBusy (s : State) (code : RespCode) (data : Byte) : (s.respond code data).encBusy = s.encBusy := rfl
@[simp] theorem State.respond_decBusy (s : State) (code : RespCode) (data : Byte) : (s.respond code data).decBusy = s.decBusy := rfl
@[simp] theorem State.respond_encOutcome (s : State) (code : RespCode) (data : Byte) : (s.respond code data).encOutcome = s.encOutcome := rfl
@[simp] theorem State.respond_decOutcome (s : State) (code : RespCode) (data : Byte) : (s.respond code data).decOutcome = s.decOutcome := rfl
@[simp] theorem State.respond_encWire (s : State) (code : RespCode) (data : Byte) : (s.respond code data).encWire = s.encWire := rfl
@[simp] theorem State.respond_encPtr (s : State) (code : RespCode) (data : Byte) : (s.respond code data).encPtr = s.encPtr := rfl
@[simp] theorem State.respond_dPhase (s : State) (code : RespCode) (data : Byte) : (s.respond code data).dPhase = s.dPhase := rfl
@[simp] theorem State.respond_dEsc (s : State) (code : RespCode) (data : Byte) : (s.respond code data).dEsc = s.dEsc := rfl
@[simp] theorem State.respond_dSyncCnt (s : State) (code : RespCode) (data : Byte) : (s.respond code data).dSyncCnt = s.dSyncCnt := rfl
@[simp] theorem State.respond_dIdx (s : State) (code : RespCode) (data : Byte) : (s.respond code data).dIdx = s.dIdx := rfl
@[simp] theorem State.respond_cfg (s : State) (code : RespCode) (data : Byte) : (s.respond code data).cfg = s.cfg := rfl
@[simp] theorem State.respond_draws (s : State) (code : RespCode) (data : Byte) : (s.respond code data).draws = s.draws := rfl
@[simp] theorem State.respond_ports (s : State) (code : RespCode) (data : Byte) : (s.respond code data).ports = { s.ports with responses := s.ports.responses ++ [⟨code, data⟩] } := rfl

theorem State.refuse_eq (s : State) (code : RespCode) : s.refuse code = s.respond code 0x00 := rfl

/-! ## foldRx -/

@[simp] theorem State.foldRx_crcAcc (s : State) (v : Byte) : (s.foldRx v).crcAcc = s.crcAcc := rfl
@[simp] theorem State.foldRx_pktAddr (s : State) (v : Byte) : (s.foldRx v).pktAddr = s.pktAddr := rfl
@[simp] theorem State.foldRx_pktCmd (s : State) (v : Byte) : (s.foldRx v).pktCmd = s.pktCmd := rfl
@[simp] theorem State.foldRx_pktLen (s : State) (v : Byte) : (s.foldRx v).pktLen = s.pktLen := rfl
@[simp] theorem State.foldRx_pktData (s : State) (v : Byte) : (s.foldRx v).pktData = s.pktData := rfl
@[simp] theorem State.foldRx_txCrc (s : State) (v : Byte) : (s.foldRx v).txCrc = s.txCrc := rfl
@[simp] theorem State.foldRx_rxCrc (s : State) (v : Byte) : (s.foldRx v).rxCrc = upd s.cfg s.rxCrc v := rfl
@[simp] theorem State.foldRx_encBusy (s : State) (v : Byte) : (s.foldRx v).encBusy = s.encBusy := rfl
@[simp] theorem State.foldRx_decBusy (s : State) (v : Byte) : (s.foldRx v).decBusy = s.decBusy := rfl
@[simp] theorem State.foldRx_encOutcome (s : State) (v : Byte) : (s.foldRx v).encOutcome = s.encOutcome := rfl
@[simp] theorem State.foldRx_decOutcome (s : State) (v : Byte) : (s.foldRx v).decOutcome = s.decOutcome := rfl
@[simp] theorem State.foldRx_encWire (s : State) (v : Byte) : (s.foldRx v).encWire = s.encWire := rfl
@[simp] theorem State.foldRx_encPtr (s : State) (v : Byte) : (s.foldRx v).encPtr = s.encPtr := rfl
@[simp] theorem State.foldRx_dPhase (s : State) (v : Byte) : (s.foldRx v).dPhase = s.dPhase := rfl
@[simp] theorem State.foldRx_dEsc (s : State) (v : Byte) : (s.foldRx v).dEsc = s.dEsc := rfl
@[simp] theorem State.foldRx_dSyncCnt (s : State) (v : Byte) : (s.foldRx v).dSyncCnt = s.dSyncCnt := rfl
@[simp] theorem State.foldRx_dIdx (s : State) (v : Byte) : (s.foldRx v).dIdx = s.dIdx := rfl
@[simp] theorem State.foldRx_cfg (s : State) (v : Byte) : (s.foldRx v).cfg = s.cfg := rfl
@[simp] theorem State.foldRx_draws (s : State) (v : Byte) : (s.foldRx v).draws = s.draws := rfl
@[simp] theorem State.foldRx_ports (s : State) (v : Byte) : (s.foldRx v).ports = s.ports := rfl

/-! ## endEncode -/

@[simp] theorem endEncode_crcAcc (s : State) (code : EncOutcome) : (endEncode code s).crcAcc = s.crcAcc := rfl
@[simp] theorem endEncode_pktAddr (s : State) (code : EncOutcome) : (endEncode code s).pktAddr = s.pktAddr := rfl
@[simp] theorem endEncode_pktCmd (s : State) (code : EncOutcome) : (endEncode code s).pktCmd = s.pktCmd := rfl
@[simp] theorem endEncode_pktLen (s : State) (code : EncOutcome) : (endEncode code s).pktLen = s.pktLen := rfl
@[simp] theorem endEncode_pktData (s : State) (code : EncOutcome) : (endEncode code s).pktData = s.pktData := rfl
@[simp] theorem endEncode_txCrc (s : State) (code : EncOutcome) : (endEncode code s).txCrc = s.txCrc := rfl
@[simp] theorem endEncode_rxCrc (s : State) (code : EncOutcome) : (endEncode code s).rxCrc = s.rxCrc := rfl
@[simp] theorem endEncode_encBusy (s : State) (code : EncOutcome) : (endEncode code s).encBusy = false := rfl
@[simp] theorem endEncode_decBusy (s : State) (code : EncOutcome) : (endEncode code s).decBusy = s.decBusy := rfl
@[simp] theorem endEncode_encOutcome (s : State) (code : EncOutcome) : (endEncode code s).encOutcome = code := rfl
@[simp] theorem endEncode_decOutcome (s : State) (code : EncOutcome) : (endEncode code s).decOutcome = s.decOutcome := rfl
@[simp] theorem endEncode_encWire (s : State) (code : EncOutcome) : (endEncode code s).encWire = s.encWire := rfl
@[simp] theorem endEncode_encPtr (s : State) (code : EncOutcome) : (endEncode code s).encPtr = s.encPtr := rfl
@[simp] theorem endEncode_dPhase (s : State) (code : EncOutcome) : (endEncode code s).dPhase = s.dPhase := rfl
@[simp] theorem endEncode_dEsc (s : State) (code : EncOutcome) : (endEncode code s).dEsc = s.dEsc := rfl
@[simp] theorem endEncode_dSyncCnt (s : State) (code : EncOutcome) : (endEncode code s).dSyncCnt = s.dSyncCnt := rfl
@[simp] theorem endEncode_dIdx (s : State) (code : EncOutcome) : (endEncode code s).dIdx = s.dIdx := rfl
@[simp] theorem endEncode_cfg (s : State) (code : EncOutcome) : (endEncode code s).cfg = s.cfg := rfl
@[simp] theorem endEncode_draws (s : State) (code : EncOutcome) : (endEncode code s).draws = s.draws := rfl
@[simp] theorem endEncode_ports (s : State) (code : EncOutcome) : (endEncode code s).ports = s.ports := rfl

/-! ## txFail -/

@[simp] theorem txFail_crcAcc (s : State) : (txFail s).crcAcc = s.crcAcc := rfl
@[simp] theorem txFail_pktAddr (s : State) : (txFail s).pktAddr = s.pktAddr := rfl
@[simp] theorem txFail_pktCmd (s : State) : (txFail s).pktCmd = s.pktCmd := rfl
@[simp] theorem txFail_pktLen (s : State) : (txFail s).pktLen = s.pktLen := rfl
@[simp] theorem txFail_pktData (s : State) : (txFail s).pktData = s.pktData := rfl
@[simp] theorem txFail_txCrc (s : State) : (txFail s).txCrc = s.txCrc := rfl
@[simp] theorem txFail_rxCrc (s : State) : (txFail s).rxCrc = s.rxCrc := rfl
@[simp] theorem txFail_encBusy (s : State) : (txFail s).encBusy = false := rfl
@[simp] theorem txFail_decBusy (s : State) : (txFail s).decBusy = s.decBusy := rfl
@[simp] theorem txFail_encOutcome (s : State) : (txFail s).encOutcome = .transportError := rfl
@[simp] theorem txFail_decOutcome (s : State) : (txFail s).decOutcome = s.decOutcome := rfl
@[simp] theorem txFail_encWire (s : State) : (txFail s).encWire = s.encWire := rfl
@[simp] theorem txFail_encPtr (s : State) : (txFail s).encPtr = s.encPtr := rfl
@[simp] theorem txFail_dPhase (s : State) : (txFail s).dPhase = s.dPhase := rfl
@[simp] theorem txFail_dEsc (s : State) : (txFail s).dEsc = s.dEsc := rfl
@[simp] theorem txFail_dSyncCnt (s : State) : (txFail s).dSyncCnt = s.dSyncCnt := rfl
@[simp] theorem txFail_dIdx (s : State) : (txFail s).dIdx = s.dIdx := rfl
@[simp] theorem txFail_cfg (s : State) : (txFail s).cfg = s.cfg := rfl
@[simp] theorem txFail_draws (s : State) : (txFail s).draws = s.draws := rfl
@[simp] theorem txFail_ports (s : State) : (txFail s).ports = s.ports := rfl

/-! ## rst -/

@[simp] theorem State.rst_crcAcc (s : State) : (s.rst).crcAcc = s.cfg.seed := rfl
@[simp] theorem State.rst_pktAddr (s : State) : (s.rst).pktAddr = 0 := rfl
@[simp] theorem State.rst_pktCmd (s : State) : (s.rst).pktCmd = 0 := rfl
@[simp] theorem State.rst_pktLen (s : State) : (s.rst).pktLen = 0 := rfl
@[simp] theorem State.rst_pktData (s : State) : (s.rst).pktData = [] := rfl
@[simp] theorem State.rst_txCrc (s : State) : (s.rst).txCrc = 0 := rfl
@[simp] theorem State.rst_rxCrc (s : State) : (s.rst).rxCrc = 0 := rfl
@[simp] theorem State.rst_encBusy (s : State) : (s.rst).encBusy = false := rfl
@[simp] theorem State.rst_decBusy (s : State) : (s.rst).decBusy = false := rfl
@[simp] theorem State.rst_encOutcome (s : State) : (s.rst).encOutcome = .none := rfl
@[simp] theorem State.rst_decOutcome (s : State) : (s.rst).decOutcome = .none := rfl
@[simp] theorem State.rst_encWire (s : State) : (s.rst).encWire = [] := rfl
@[simp] theorem State.rst_encPtr (s : State) : (s.rst).encPtr = 0 := rfl
@[simp] theorem State.rst_dPhase (s : State) : (s.rst).dPhase = .idle := rfl
@[simp] theorem State.rst_dEsc (s : State) : (s.rst).dEsc = false := rfl
@[simp] theorem State.rst_dSyncCnt (s : State) : (s.rst).dSyncCnt = 0 := rfl
@[simp] theorem State.rst_dIdx (s : State) : (s.rst).dIdx = 0 := rfl
@[simp] theorem State.rst_cfg (s : State) : (s.rst).cfg = s.cfg := rfl
@[simp] theorem State.rst_draws (s : State) : (s.rst).draws = s.draws := rfl
@[simp] theorem State.rst_ports (s : State) : (s.rst).ports = s.ports := rfl

/-! ## drawPacket: the packet registers hold free values -/

@[simp] theorem State.drawPacket_crcAcc (s : State) : (s.drawPacket).crcAcc = s.crcAcc := rfl
@[simp] theorem State.drawPacket_pktData (s : State) : (s.drawPacket).pktData = s.pktData.fill s.drawn 0 s.cfg.payloadCap := rfl
@[simp] theorem State.drawPacket_txCrc (s : State) : (s.drawPacket).txCrc = s.txCrc := rfl
@[simp] theorem State.drawPacket_rxCrc (s : State) : (s.drawPacket).rxCrc = s.rxCrc := rfl
@[simp] theorem State.drawPacket_encBusy (s : State) : (s.drawPacket).encBusy = s.encBusy := rfl
@[simp] theorem State.drawPacket_decBusy (s : State) : (s.drawPacket).decBusy = s.decBusy := rfl
@[simp] theorem State.drawPacket_encOutcome (s : State) : (s.drawPacket).encOutcome = s.encOutcome := rfl
@[simp] theorem State.drawPacket_decOutcome (s : State) : (s.drawPacket).decOutcome = s.decOutcome := rfl
@[simp] theorem State.drawPacket_encWire (s : State) : (s.drawPacket).encWire = s.encWire := rfl
@[simp] theorem State.drawPacket_encPtr (s : State) : (s.drawPacket).encPtr = s.encPtr := rfl
@[simp] theorem State.drawPacket_dPhase (s : State) : (s.drawPacket).dPhase = s.dPhase := rfl
@[simp] theorem State.drawPacket_dEsc (s : State) : (s.drawPacket).dEsc = s.dEsc := rfl
@[simp] theorem State.drawPacket_dSyncCnt (s : State) : (s.drawPacket).dSyncCnt = s.dSyncCnt := rfl
@[simp] theorem State.drawPacket_dIdx (s : State) : (s.drawPacket).dIdx = s.dIdx := rfl
@[simp] theorem State.drawPacket_cfg (s : State) : (s.drawPacket).cfg = s.cfg := rfl
@[simp] theorem State.drawPacket_draws (s : State) : (s.drawPacket).draws = s.draws + drawsPerDecode s.cfg.payloadCap := rfl
@[simp] theorem State.drawPacket_ports (s : State) : (s.drawPacket).ports = s.ports := rfl

/-! ## drawRest: the cells from `PKT_LEN` on hold free values -/

@[simp] theorem State.drawRest_crcAcc (s : State) : (s.drawRest).crcAcc = s.crcAcc := rfl
@[simp] theorem State.drawRest_pktAddr (s : State) : (s.drawRest).pktAddr = s.pktAddr := rfl
@[simp] theorem State.drawRest_pktCmd (s : State) : (s.drawRest).pktCmd = s.pktCmd := rfl
@[simp] theorem State.drawRest_pktLen (s : State) : (s.drawRest).pktLen = s.pktLen := rfl
@[simp] theorem State.drawRest_pktData (s : State) : (s.drawRest).pktData = s.pktData.fill s.drawn s.pktLen.toNat (s.cfg.payloadCap - s.pktLen.toNat) := rfl
@[simp] theorem State.drawRest_txCrc (s : State) : (s.drawRest).txCrc = s.txCrc := rfl
@[simp] theorem State.drawRest_rxCrc (s : State) : (s.drawRest).rxCrc = s.rxCrc := rfl
@[simp] theorem State.drawRest_encBusy (s : State) : (s.drawRest).encBusy = s.encBusy := rfl
@[simp] theorem State.drawRest_decBusy (s : State) : (s.drawRest).decBusy = s.decBusy := rfl
@[simp] theorem State.drawRest_encOutcome (s : State) : (s.drawRest).encOutcome = s.encOutcome := rfl
@[simp] theorem State.drawRest_decOutcome (s : State) : (s.drawRest).decOutcome = s.decOutcome := rfl
@[simp] theorem State.drawRest_encWire (s : State) : (s.drawRest).encWire = s.encWire := rfl
@[simp] theorem State.drawRest_encPtr (s : State) : (s.drawRest).encPtr = s.encPtr := rfl
@[simp] theorem State.drawRest_dPhase (s : State) : (s.drawRest).dPhase = s.dPhase := rfl
@[simp] theorem State.drawRest_dEsc (s : State) : (s.drawRest).dEsc = s.dEsc := rfl
@[simp] theorem State.drawRest_dSyncCnt (s : State) : (s.drawRest).dSyncCnt = s.dSyncCnt := rfl
@[simp] theorem State.drawRest_dIdx (s : State) : (s.drawRest).dIdx = s.dIdx := rfl
@[simp] theorem State.drawRest_cfg (s : State) : (s.drawRest).cfg = s.cfg := rfl
@[simp] theorem State.drawRest_draws (s : State) : (s.drawRest).draws = s.draws + drawsPerDecode s.cfg.payloadCap := rfl
@[simp] theorem State.drawRest_ports (s : State) : (s.drawRest).ports = s.ports := rfl

/-! ## terminate -/

@[simp] theorem terminate_crcAcc (s : State) (code : DecOutcome) : (terminate code s).crcAcc = s.crcAcc := by
  unfold terminate; split <;> rfl
@[simp] theorem terminate_txCrc (s : State) (code : DecOutcome) : (terminate code s).txCrc = s.txCrc := by
  unfold terminate; split <;> rfl
@[simp] theorem terminate_rxCrc (s : State) (code : DecOutcome) : (terminate code s).rxCrc = s.rxCrc := by
  unfold terminate; split <;> rfl
@[simp] theorem terminate_encBusy (s : State) (code : DecOutcome) : (terminate code s).encBusy = s.encBusy := by
  unfold terminate; split <;> rfl
@[simp] theorem terminate_decBusy (s : State) (code : DecOutcome) : (terminate code s).decBusy = false := by
  unfold terminate; split <;> rfl
@[simp] theorem terminate_encOutcome (s : State) (code : DecOutcome) : (terminate code s).encOutcome = s.encOutcome := by
  unfold terminate; split <;> rfl
@[simp] theorem terminate_decOutcome (s : State) (code : DecOutcome) : (terminate code s).decOutcome = code := by
  unfold terminate; split <;> rfl
@[simp] theorem terminate_encWire (s : State) (code : DecOutcome) : (terminate code s).encWire = s.encWire := by
  unfold terminate; split <;> rfl
@[simp] theorem terminate_encPtr (s : State) (code : DecOutcome) : (terminate code s).encPtr = s.encPtr := by
  unfold terminate; split <;> rfl
@[simp] theorem terminate_dPhase (s : State) (code : DecOutcome) : (terminate code s).dPhase = .idle := by
  unfold terminate; split <;> rfl
@[simp] theorem terminate_dEsc (s : State) (code : DecOutcome) : (terminate code s).dEsc = false := by
  unfold terminate; split <;> rfl
@[simp] theorem terminate_dSyncCnt (s : State) (code : DecOutcome) : (terminate code s).dSyncCnt = s.dSyncCnt := by
  unfold terminate; split <;> rfl
@[simp] theorem terminate_dIdx (s : State) (code : DecOutcome) : (terminate code s).dIdx = s.dIdx := by
  unfold terminate; split <;> rfl
@[simp] theorem terminate_cfg (s : State) (code : DecOutcome) : (terminate code s).cfg = s.cfg := by
  unfold terminate; split <;> rfl
@[simp] theorem terminate_ports (s : State) (code : DecOutcome) : (terminate code s).ports = s.ports := by
  unfold terminate; split <;> rfl

/-- After `Ok` the packet registers other than the cells keep their values (R186). -/
theorem terminate_ok_registers (s : State) :
    (terminate .ok s).pktAddr = s.pktAddr ∧ (terminate .ok s).pktCmd = s.pktCmd ∧
      (terminate .ok s).pktLen = s.pktLen :=
  ⟨rfl, rfl, rfl⟩

/-! ## txAck -/

@[simp] theorem txAck_crcAcc (s : State) (b : Byte) : (txAck b s).crcAcc = s.crcAcc := by
  unfold txAck; split <;> rfl
@[simp] theorem txAck_pktAddr (s : State) (b : Byte) : (txAck b s).pktAddr = s.pktAddr := by
  unfold txAck; split <;> rfl
@[simp] theorem txAck_pktCmd (s : State) (b : Byte) : (txAck b s).pktCmd = s.pktCmd := by
  unfold txAck; split <;> rfl
@[simp] theorem txAck_pktLen (s : State) (b : Byte) : (txAck b s).pktLen = s.pktLen := by
  unfold txAck; split <;> rfl
@[simp] theorem txAck_pktData (s : State) (b : Byte) : (txAck b s).pktData = s.pktData := by
  unfold txAck; split <;> rfl
@[simp] theorem txAck_txCrc (s : State) (b : Byte) : (txAck b s).txCrc = s.txCrc := by
  unfold txAck; split <;> rfl
@[simp] theorem txAck_rxCrc (s : State) (b : Byte) : (txAck b s).rxCrc = s.rxCrc := by
  unfold txAck; split <;> rfl
@[simp] theorem txAck_decBusy (s : State) (b : Byte) : (txAck b s).decBusy = s.decBusy := by
  unfold txAck; split <;> rfl
@[simp] theorem txAck_decOutcome (s : State) (b : Byte) : (txAck b s).decOutcome = s.decOutcome := by
  unfold txAck; split <;> rfl
@[simp] theorem txAck_encWire (s : State) (b : Byte) : (txAck b s).encWire = s.encWire := by
  unfold txAck; split <;> rfl
@[simp] theorem txAck_encPtr (s : State) (b : Byte) : (txAck b s).encPtr = s.encPtr + 1 := by
  unfold txAck; split <;> rfl
@[simp] theorem txAck_dPhase (s : State) (b : Byte) : (txAck b s).dPhase = s.dPhase := by
  unfold txAck; split <;> rfl
@[simp] theorem txAck_dEsc (s : State) (b : Byte) : (txAck b s).dEsc = s.dEsc := by
  unfold txAck; split <;> rfl
@[simp] theorem txAck_dSyncCnt (s : State) (b : Byte) : (txAck b s).dSyncCnt = s.dSyncCnt := by
  unfold txAck; split <;> rfl
@[simp] theorem txAck_dIdx (s : State) (b : Byte) : (txAck b s).dIdx = s.dIdx := by
  unfold txAck; split <;> rfl
@[simp] theorem txAck_cfg (s : State) (b : Byte) : (txAck b s).cfg = s.cfg := by
  unfold txAck; split <;> rfl
@[simp] theorem txAck_draws (s : State) (b : Byte) : (txAck b s).draws = s.draws := by
  unfold txAck; split <;> rfl
@[simp] theorem txAck_ports (s : State) (b : Byte) : (txAck b s).ports = { s.ports with line := s.ports.line ++ [b] } := by
  unfold txAck; split <;> rfl
@[simp] theorem txAck_encBusy (s : State) (b : Byte) :
    (txAck b s).encBusy = if s.encPtr + 1 = s.encWire.length then false else s.encBusy := by
  unfold txAck; split <;> rfl
@[simp] theorem txAck_encOutcome (s : State) (b : Byte) :
    (txAck b s).encOutcome = if s.encPtr + 1 = s.encWire.length then .ok else s.encOutcome := by
  unfold txAck; split <;> rfl

end Sys2Proof.Machine
end

