-- ==== Sys2Proof/Laws/Memory.lean ====
section
/-! SUPPORT. The payload cells: a read after a write, and that every operation keeps the canonical form. -/

namespace Sys2Proof.Machine

@[simp] theorem Memory.read_nil (i : Nat) : Memory.read [] i = 0 := rfl

theorem Memory.wf_nil : Memory.wf [] = true := rfl

theorem Memory.within_nil (cap : Nat) : Memory.within [] cap = true := rfl

/-- The canonical form, cell by cell. -/
theorem Memory.wf_cons (k : Nat) (v : Byte) (rest : Memory) :
    Memory.wf ((k, v) :: rest) = true ↔
      (∀ x ∈ rest, k < x.1) ∧ v ≠ Memory.unlisted ∧ Memory.wf rest = true := by
  simp [Memory.wf, List.pairwise_cons]
  tauto

/-- A cell below every listed one reads as an unlisted cell. -/
theorem Memory.read_of_lt (m : Memory) (i : Nat) (h : ∀ x ∈ m, i < x.1) : m.read i = Memory.unlisted := by
  induction m with
  | nil => rfl
  | cons x rest ih =>
    obtain ⟨k, v⟩ := x
    have hk : i < k := h (k, v) (by simp)
    simp only [Memory.read]
    rw [if_neg (by omega)]
    exact ih fun y hy => h y (List.mem_cons_of_mem _ hy)

/-- Every listed index after a write was listed before, or is the written one. -/
theorem Memory.mem_write (m : Memory) (i : Nat) (v : Byte) (x : Host.Cell) (h : x ∈ m.write i v) :
    x = (i, v) ∧ v ≠ Memory.unlisted ∨ x ∈ m := by
  induction m with
  | nil =>
    simp only [Memory.write] at h
    split at h <;> simp_all
  | cons y rest ih =>
    obtain ⟨k, w⟩ := y
    simp only [Memory.write] at h
    split at h
    · split at h <;> simp_all
    · split at h
      · split at h
        · exact .inr (List.mem_cons_of_mem _ h)
        · rcases List.mem_cons.1 h with h | h
          · exact .inl ⟨h, by assumption⟩
          · exact .inr (List.mem_cons_of_mem _ h)
      · rcases List.mem_cons.1 h with h | h
        · simp [h]
        · rcases ih h with h | h
          · exact .inl h
          · exact .inr (List.mem_cons_of_mem _ h)

/-- A write keeps the canonical form. -/
theorem Memory.wf_write (m : Memory) (i : Nat) (v : Byte) (h : m.wf = true) : (m.write i v).wf = true := by
  induction m with
  | nil =>
    simp only [Memory.write]
    split
    · rfl
    · simp_all [Memory.wf]
  | cons y rest ih =>
    obtain ⟨k, w⟩ := y
    obtain ⟨hk, hw, hr⟩ := (Memory.wf_cons k w rest).1 h
    simp only [Memory.write]
    split
    · split
      · exact h
      · refine (Memory.wf_cons _ _ _).2 ⟨?_, by assumption, h⟩
        intro x hx
        rcases List.mem_cons.1 hx with rfl | hx
        · assumption
        · have := hk x hx
          omega
    · split
      · split
        · exact hr
        · subst_vars
          exact (Memory.wf_cons _ _ _).2 ⟨hk, by assumption, hr⟩
      · refine (Memory.wf_cons _ _ _).2 ⟨?_, hw, ih hr⟩
        intro x hx
        rcases Memory.mem_write _ _ _ _ hx with ⟨rfl, _⟩ | hx
        · show k < i
          omega
        · exact hk x hx

/-- A write to a cell below `cap` lists no cell outside. -/
theorem Memory.within_write (m : Memory) (i : Nat) (v : Byte) (cap : Nat) (h : m.within cap = true)
    (hi : i < cap) : (m.write i v).within cap = true := by
  simp only [Memory.within, List.all_eq_true, decide_eq_true_eq] at *
  intro x hx
  rcases Memory.mem_write _ _ _ _ hx with ⟨rfl, _⟩ | hx
  · exact hi
  · exact h x hx

/-- A read after a write: the written value at that cell, the old one elsewhere. -/
theorem Memory.read_write (m : Memory) (i : Nat) (v : Byte) (j : Nat) (h : m.wf = true) :
    (m.write i v).read j = if j = i then v else m.read j := by
  induction m with
  | nil =>
    simp only [Memory.write]
    split <;> rename_i hv
    · subst hv
      simp [Memory.read]
    · simp only [Memory.read]
      split <;> split <;> simp_all
  | cons y rest ih =>
    obtain ⟨k, w⟩ := y
    obtain ⟨hk, hw, hr⟩ := (Memory.wf_cons k w rest).1 h
    simp only [Memory.write]
    split
    · rename_i hlt
      split <;> rename_i hv
      · split
        · subst_vars
          rw [Memory.read_of_lt]
          intro x hx
          rcases List.mem_cons.1 hx with rfl | hx
          · exact hlt
          · have := hk x hx
            omega
        · rfl
      · rw [Memory.read]
        simp only [eq_comm]
    · split
      · subst_vars
        split <;> rename_i hv
        · split
          · subst_vars
            rw [Memory.read_of_lt _ _ hk]
          · simp only [Memory.read]
            rw [if_neg (by omega)]
        · simp only [Memory.read]
          split <;> split <;> first | omega | rfl
      · simp only [Memory.read, ih hr]
        split <;> split <;> first | omega | rfl

/-- The written cell reads as written. -/
theorem Memory.read_write_self (m : Memory) (i : Nat) (v : Byte) (h : m.wf = true) :
    (m.write i v).read i = v := by
  rw [Memory.read_write m i v i h, if_pos rfl]

/-- Filling keeps the canonical form. -/
theorem Memory.wf_fill (m : Memory) (f : Nat → Byte) (lo count : Nat) (h : m.wf = true) :
    (m.fill f lo count).wf = true := by
  induction count with
  | zero => exact h
  | succ n ih => exact Memory.wf_write _ _ _ ih

/-- Filling cells below `cap` lists no cell outside. -/
theorem Memory.within_fill (m : Memory) (f : Nat → Byte) (lo count cap : Nat) (h : m.within cap = true)
    (hc : lo + count ≤ cap) : (m.fill f lo count).within cap = true := by
  induction count with
  | zero => exact h
  | succ n ih => exact Memory.within_write _ _ _ _ (ih (by omega)) (by omega)

/-- A read after a fill. -/
theorem Memory.read_fill (m : Memory) (f : Nat → Byte) (lo count j : Nat) (h : m.wf = true) :
    (m.fill f lo count).read j = if lo ≤ j ∧ j < lo + count then f j else m.read j := by
  induction count with
  | zero =>
    rw [if_neg (by omega)]
    rfl
  | succ n ih =>
    show (Memory.write (m.fill f lo n) (lo + n) (f (lo + n))).read j = _
    rw [Memory.read_write _ _ _ _ (Memory.wf_fill m f lo n h), ih]
    split <;> split <;> (try split) <;> first | omega | rfl | (subst_vars; rfl)

end Sys2Proof.Machine
end

