-- ==== Sys2Proof/Laws/Frame.lean ====
section
/-! SUPPORT. The checksum and stuffing functions, taken apart once. -/

namespace Sys2Proof.Machine

/-! ## Checksum -/

@[simp] theorem fold_nil (c : Config) (acc : Byte) : fold c acc [] = acc := rfl

@[simp] theorem fold_cons (c : Config) (acc b : Byte) (bs : List Byte) :
    fold c acc (b :: bs) = fold c (upd c acc b) bs := rfl

theorem fold_append (c : Config) (acc : Byte) (xs ys : List Byte) :
    fold c acc (xs ++ ys) = fold c (fold c acc xs) ys := List.foldl_append

/-- R104: folding in the accumulator itself. -/
theorem upd_self (c : Config) (acc : Byte) : upd c acc acc = T c 0 := by simp [upd]

/-- What is folded of the start marker (R10). -/
theorem fold_crcLead (c : Config) (acc : Byte) :
    fold c acc (crcLead c) = if c.fendInCrc then T c (acc ^^^ FEND) else acc := by
  unfold crcLead; split <;> rfl

/-! ## Stuffing -/

@[simp] theorem stuffAll_nil : stuffAll [] = [] := rfl

@[simp] theorem stuffAll_cons (b : Byte) (bs : List Byte) : stuffAll (b :: bs) = stuff b ++ stuffAll bs := rfl

@[simp] theorem stuffAll_append (xs ys : List Byte) : stuffAll (xs ++ ys) = stuffAll xs ++ stuffAll ys :=
  List.flatMap_append

/-- The three forms of a stuffed byte (R74). -/
theorem stuff_cases (b : Byte) :
    b = FEND ∧ stuff b = [FESC, TFEND] ∨ b = FESC ∧ stuff b = [FESC, TFESC] ∨
      (b ≠ FEND ∧ b ≠ FESC) ∧ stuff b = [b] := by
  unfold stuff
  split
  · simp_all
  · split <;> simp_all

/-- A stuffed byte takes one or two wire bytes, one if it is no marker (R77). -/
theorem length_stuff (b : Byte) :
    1 ≤ (stuff b).length ∧ (stuff b).length ≤ 2 ∧ (b ≠ FEND → b ≠ FESC → (stuff b).length = 1) := by
  rcases stuff_cases b with ⟨hb, h⟩ | ⟨hb, h⟩ | ⟨_, h⟩ <;> rw [h]
  · simp [hb]
  · simp [hb]
  · simp

/-- A stuffed sequence takes between one and two wire bytes for each of its bytes. -/
theorem length_stuffAll (bs : List Byte) :
    bs.length ≤ (stuffAll bs).length ∧ (stuffAll bs).length ≤ 2 * bs.length := by
  induction bs with
  | nil => simp
  | cons b bs ih =>
    have := length_stuff b
    simp only [stuffAll_cons, List.length_append, List.length_cons]
    omega

/-- No raw `FEND` comes out of stuffing (R76). -/
theorem fend_notMem_stuffAll (bs : List Byte) : FEND ∉ stuffAll bs := by
  induction bs with
  | nil => simp
  | cons b bs ih =>
    rw [stuffAll_cons]
    rcases stuff_cases b with ⟨_, h⟩ | ⟨_, h⟩ | ⟨⟨h1, _⟩, h⟩ <;> rw [h]
    · simpa using ih
    · simpa using ih
    · simp only [List.cons_append, List.nil_append, List.mem_cons, not_or]
      exact ⟨fun e => h1 e.symm, ih⟩

/-- The logical bytes of a frame, for the length of R77. -/
theorem length_logical (addr : BitVec 7) (cmd n : Byte) (d : List Byte) :
    (logical addr cmd n d).length = (if addr ≠ 0 then 1 else 0) + 2 + d.length := by
  unfold logical
  split <;> simp <;> omega

/-- The address byte carries the address with bit 7 set (R72). -/
theorem addrByte_getLsbD (addr : BitVec 7) : (addrByte addr).getLsbD 7 = true := by
  revert addr; decide

theorem addrByte_low (addr : BitVec 7) : (addrByte addr).extractLsb' 0 7 = addr := by
  revert addr; decide

@[simp] theorem length_payload (m : Memory) (n : Nat) : (m.payload n).length = n := by
  simp [Memory.payload]

theorem encodeFrame_fst (c : Config) (addr : BitVec 7) (cmd n : Byte) (d : List Byte) :
    (encodeFrame c addr cmd n d).1 =
      FEND :: stuffAll (logical addr cmd n d ++ [frameCrc c addr cmd n d]) := rfl

theorem encodeFrame_snd (c : Config) (addr : BitVec 7) (cmd n : Byte) (d : List Byte) :
    (encodeFrame c addr cmd n d).2 = frameCrc c addr cmd n d := rfl

end Sys2Proof.Machine
end

