-- ==== Sys2Proof/Laws/Exec.lean ====
section
/-! SUPPORT. What the shared operations of the meanings can do, and what one step can do, said once. -/

namespace Sys2Proof.Machine

/-! ## Commands -/

theorem unlessBusy_false (s : State) (k : Result) : s.unlessBusy false k = k := rfl

theorem unlessBusy_true (s : State) (k : Result) : s.unlessBusy true k = .next (s.refuse .busy) := rfl

theorem unlessOut_false (s : State) (k : Result) : s.unlessOut false k = k := rfl

theorem unlessOut_true (s : State) (k : Result) : s.unlessOut true k = .next (s.refuse .range) := rfl

/-- A busy check answers a refusal, or what follows it. -/
theorem unlessBusy_next {s t : State} {busy : Bool} {k : Result} (h : s.unlessBusy busy k = .next t) :
    busy = true ∧ t = s.respond .busy 0 ∨ busy = false ∧ k = .next t := by
  cases busy with
  | true => exact .inl ⟨rfl, (Host.Outcome.next.inj h).symm⟩
  | false => exact .inr ⟨rfl, h⟩

/-- A range check answers a refusal, or what follows it. -/
theorem unlessOut_next {s t : State} {out : Bool} {k : Result} (h : s.unlessOut out k = .next t) :
    out = true ∧ t = s.respond .range 0 ∨ out = false ∧ k = .next t := by
  cases out with
  | true => exact .inl ⟨rfl, (Host.Outcome.next.inj h).symm⟩
  | false => exact .inr ⟨rfl, h⟩

theorem done_next {s t : State} (h : s.done = .next t) : t = s.respond .ok 0 :=
  (Host.Outcome.next.inj h).symm

theorem answer_next {s t : State} {data : Byte} (h : s.answer data = .next t) : t = s.respond .ok data :=
  (Host.Outcome.next.inj h).symm

@[simp] theorem anyBusy_eq_false (s : State) :
    s.anyBusy = false ↔ s.encBusy = false ∧ s.decBusy = false := by
  simp [State.anyBusy]

@[simp] theorem anyBusy_eq_true (s : State) :
    s.anyBusy = true ↔ s.encBusy = true ∨ s.decBusy = true := by
  simp [State.anyBusy]

/-! ## Contexts -/

theorem wireContext_sync {s : State} (hb : s.decBusy = true) (hp : s.dPhase = .sync) :
    s.wireContext = some .sync := by
  simp [State.wireContext, hb, hp]

theorem wireContext_field {s : State} {p : FieldPhase} (hb : s.decBusy = true) (hp : s.dPhase = .field p)
    (he : s.dEsc = false) : s.wireContext = some .field := by
  simp [State.wireContext, hb, hp, he]

theorem wireContext_escaped {s : State} {p : FieldPhase} (hb : s.decBusy = true) (hp : s.dPhase = .field p)
    (he : s.dEsc = true) : s.wireContext = some .escaped := by
  simp [State.wireContext, hb, hp, he]

theorem wireContext_none {s : State} (hb : s.decBusy = false) : s.wireContext = none := by
  simp [State.wireContext, hb]

/-- What a context says of the state. -/
theorem wireContext_cases {s : State} {c : WireContext} (h : s.wireContext = some c) :
    s.decBusy = true ∧
      (c = .sync ∧ s.dPhase = .sync ∨
        ∃ p, s.dPhase = .field p ∧ (c = .field ∧ s.dEsc = false ∨ c = .escaped ∧ s.dEsc = true)) := by
  unfold State.wireContext at h
  split at h
  · rename_i hb
    refine ⟨hb, ?_⟩
    split at h
    · cases h
    · cases h
      exact .inl ⟨rfl, by assumption⟩
    · rename_i p hp
      refine .inr ⟨p, hp, ?_⟩
      split at h <;> cases h
      · exact .inr ⟨rfl, by assumption⟩
      · exact .inl ⟨rfl, by simp_all⟩
  · cases h

theorem inContext_of_wireContext {s : State} {c : WireContext} (h : s.wireContext = some c) :
    s.inContext c = true := by
  rcases (wireContext_cases h).2 with ⟨rfl, _⟩ | ⟨_, _, ⟨rfl, _⟩ | ⟨rfl, _⟩⟩ <;>
    simp [State.inContext, h]

theorem inContext_logical {s : State} {p : FieldPhase} (hb : s.decBusy = true) (hp : s.dPhase = .field p) :
    s.inContext (.logical p) = true := by
  simp [State.inContext, hb, hp]

/-- A byte taken in its context, and of its class, runs. -/
theorem onByte_eq {s : State} {c : WireContext} {b : Byte} {i : Instr} {k : Result}
    (hc : s.inContext c = true) (hi : decodeWire s.cfg.maxLen c b = i) : s.onByte c b i k = k := by
  simp [State.onByte, hc, hi]

/-- A byte class that answers a next state was taken in its context, and was of its class. -/
theorem onByte_next {s t : State} {c : WireContext} {b : Byte} {i : Instr} {k : Result}
    (h : s.onByte c b i k = .next t) :
    s.inContext c = true ∧ decodeWire s.cfg.maxLen c b = i ∧ k = .next t := by
  unfold State.onByte at h
  split at h
  · simp_all
  · cases h

/-- In each field phase a logical byte runs the class R87 gives it. -/
theorem field_eq_exec {s : State} {p : FieldPhase} (hp : s.dPhase = .field p) (v : Byte) :
    field v s = exec (decodeWire s.cfg.maxLen (.logical p) v) s := by
  cases p with
  | addrOrCmd => simp only [field, hp, decodeWire]; split <;> rfl
  | cmd => simp only [field, hp, decodeWire]; split <;> rfl
  | len =>
    simp only [field, hp, decodeWire]
    by_cases h : v.toNat ≤ s.cfg.maxLen
    · have ho : lenOutOfRange s.cfg v = false := by simpa [lenOutOfRange] using h
      rw [ho, if_pos h]; rfl
    · have ho : lenOutOfRange s.cfg v = true := by simpa [lenOutOfRange] using h
      rw [ho, if_neg h]; rfl
  | data => simp only [field, hp, decodeWire]; rfl
  | crc => simp only [field, hp, decodeWire]; rfl

/-- Every field phase is some phase. -/
theorem isField_cases {p : Phase} (h : p.isField = true) : ∃ q, p = .field q := by
  cases p with
  | field q => exact ⟨q, rfl⟩
  | idle => cases h
  | sync => cases h

/-! ## One step -/

/-- What a turn can do. -/
theorem turn_cases {a : Agent} {s t : State} (h : turn a s = .next t) :
    t = s ∨
    (a = .host ∧ ∃ w ws, s.ports.commands = w :: ws ∧
      commandStep w { s with ports.commands := ws } = .next t) ∨
    (a = .encoder ∧ ∃ b x xs, s.offer = some b ∧ s.ports.answers = x :: xs ∧
      t = txStep b x { s with ports.answers := xs }) ∨
    (a = .decoder ∧ ∃ c e es, s.wireContext = some c ∧ s.ports.events = e :: es ∧
      rxStep c e { s with ports.events := es } = .next t) ∨
    (a = .reset ∧ t = s.rst) := by
  cases a with
  | host =>
    simp only [turn, hostTurn] at h
    split at h
    · exact .inl (Host.Outcome.next.inj h).symm
    · exact .inr (.inl ⟨rfl, _, _, by assumption, h⟩)
  | encoder =>
    simp only [turn, encoderTurn] at h
    split at h
    · exact .inr (.inr (.inl ⟨rfl, _, _, _, by assumption, by assumption, (Host.Outcome.next.inj h).symm⟩))
    · exact .inl (Host.Outcome.next.inj h).symm
  | decoder =>
    simp only [turn, decoderTurn] at h
    split at h
    · exact .inr (.inr (.inr (.inl ⟨rfl, _, _, _, by assumption, by assumption, h⟩)))
    · exact .inl (Host.Outcome.next.inj h).symm
  | reset => exact .inr (.inr (.inr (.inr ⟨rfl, (Host.Outcome.next.inj h).symm⟩)))

/-- What a step can do: nothing without a turn, otherwise what its first turn can do. -/
theorem step_cases {s t : State} (h : step s = .next t) :
    s.ports.turns = [] ∧ t = s ∨
    ∃ a as, s.ports.turns = a :: as ∧ turn a { s with ports.turns := as } = .next t := by
  simp only [step, nextTurn] at h
  split at h
  · exact .inl ⟨by assumption, (Host.Outcome.next.inj h).symm⟩
  · exact .inr ⟨_, _, by assumption, h⟩

/-- What an RX event can do: end the decode, or run the class of its byte. -/
theorem rxStep_cases {c : WireContext} {e : RxEvent} {s t : State} (h : rxStep c e s = .next t) :
    (∃ r, e = .byte r ∧ exec (decodeWire s.cfg.maxLen c r) s = .next t) ∨
    (e = .timeout ∧ t = terminate .timeout s) ∨ (e = .error ∧ t = terminate .transportError s) := by
  cases e with
  | byte r => exact .inl ⟨r, rfl, h⟩
  | timeout => exact .inr (.inl ⟨rfl, (Host.Outcome.next.inj h).symm⟩)
  | error => exact .inr (.inr ⟨rfl, (Host.Outcome.next.inj h).symm⟩)

/-- A command word is answered `CR_ILLEGAL`, or runs. -/
theorem commandStep_cases {w : CmdWord} {s t : State} (h : commandStep w s = .next t) :
    (∃ e, decodeCmd w = .error e ∧ t = s.respond .illegal 0) ∨
    ∃ i, decodeCmd w = .ok i ∧ exec i s = .next t := by
  unfold commandStep at h
  split at h
  · exact .inr ⟨_, by assumption, h⟩
  · exact .inl ⟨_, by assumption, (Host.Outcome.next.inj h).symm⟩

/-- An offered byte stands at `ENC_PTR` of the wire image of an encode in progress (R44). -/
theorem offer_eq_some {s : State} {b : Byte} :
    s.offer = some b ↔ s.encBusy = true ∧ s.encWire[s.encPtr]? = some b := by
  unfold State.offer
  split <;> simp_all

end Sys2Proof.Machine
end

