-- ==== Sys2Proof/Laws/Effects.lean ====
section
/-! SUPPORT. What an instruction can do when it answers a next state, said once for the commands (R105 to R225),
once for a logical byte (R179 to R184) and once for a wire byte (R175 to R178). Nothing here says when. -/

namespace Sys2Proof.Machine

/-! ## Commands -/

/-- A command only responds, and never `CR_ILLEGAL` (R261), or it writes `CRC_ACC`, or it does one of the rest, and
that only while no operation is in progress. -/
theorem command_cases {i : Instr} {s t : State} (hi : i.isCommand = true) (h : exec i s = .next t) :
    (∃ code data, code ≠ .illegal ∧ t = s.respond code data) ∨
    (∃ a x, (i = .crcInit x ∨ i = .crcUpdate x) ∧ t = State.respond { s with crcAcc := a } .ok 0) ∨
    s.encBusy = false ∧ s.decBusy = false ∧ ∃ u : State, t = u.respond .ok 0 ∧
      ((∃ a, i = .pktSetAddr a ∧ u = { s with pktAddr := addrOperand a }) ∨
       (∃ c, i = .pktSetCmd c ∧ u = { s with pktCmd := c }) ∨
       (∃ n, i = .pktSetLen n ∧ n.toNat ≤ s.cfg.maxLen ∧ u = { s with pktLen := n }) ∨
       (∃ k d, i = .pktWrite k d ∧ k.toNat < s.cfg.payloadCap ∧
         u = { s with pktData := s.pktData.write k.toNat d }) ∨
       (i = .encStart ∧ s.pktLen.toNat ≤ s.cfg.payloadCap ∧
         u = { s with encWire := s.frame.1, encPtr := 0, txCrc := s.frame.2, encBusy := true }) ∨
       i = .decStart ∧
         u = { s with
               rxCrc := s.cfg.seed, dPhase := .sync, dEsc := false, dSyncCnt := 0, dIdx := 0,
               decBusy := true }) := by
  cases i <;> try cases hi
  case nop => exact .inl ⟨_, _, by decide, done_next h⟩
  case crcInit x => exact .inr (.inl ⟨_, x, .inl rfl, done_next h⟩)
  case crcUpdate x => exact .inr (.inl ⟨_, x, .inr rfl, done_next h⟩)
  case crcRead => exact .inl ⟨_, _, by decide, answer_next h⟩
  case statusRead => exact .inl ⟨_, _, by decide, answer_next h⟩
  case pktSetAddr a =>
    rcases unlessBusy_next h with ⟨_, h⟩ | ⟨hb, h⟩
    · exact .inl ⟨_, _, by decide, h⟩
    · rcases unlessOut_next h with ⟨_, h⟩ | ⟨_, h⟩
      · exact .inl ⟨_, _, by decide, h⟩
      · obtain ⟨he, hd⟩ := (anyBusy_eq_false s).1 hb
        exact .inr (.inr ⟨he, hd, _, done_next h, .inl ⟨_, rfl, rfl⟩⟩)
  case pktSetCmd c =>
    rcases unlessBusy_next h with ⟨_, h⟩ | ⟨hb, h⟩
    · exact .inl ⟨_, _, by decide, h⟩
    · obtain ⟨he, hd⟩ := (anyBusy_eq_false s).1 hb
      exact .inr (.inr ⟨he, hd, _, done_next h, .inr (.inl ⟨_, rfl, rfl⟩)⟩)
  case pktSetLen n =>
    rcases unlessBusy_next h with ⟨_, h⟩ | ⟨hb, h⟩
    · exact .inl ⟨_, _, by decide, h⟩
    · rcases unlessOut_next h with ⟨_, h⟩ | ⟨ho, h⟩
      · exact .inl ⟨_, _, by decide, h⟩
      · obtain ⟨he, hd⟩ := (anyBusy_eq_false s).1 hb
        exact .inr (.inr ⟨he, hd, _, done_next h,
          .inr (.inr (.inl ⟨n, rfl, by simpa [lenOutOfRange] using ho, rfl⟩))⟩)
  case pktWrite k d =>
    rcases unlessBusy_next h with ⟨_, h⟩ | ⟨hb, h⟩
    · exact .inl ⟨_, _, by decide, h⟩
    · rcases unlessOut_next h with ⟨_, h⟩ | ⟨ho, h⟩
      · exact .inl ⟨_, _, by decide, h⟩
      · obtain ⟨he, hd⟩ := (anyBusy_eq_false s).1 hb
        exact .inr (.inr ⟨he, hd, _, done_next h,
          .inr (.inr (.inr (.inl ⟨_, _, rfl, by simpa [indexOutOfRange] using ho, rfl⟩)))⟩)
  case pktRead k =>
    rcases unlessBusy_next h with ⟨_, h⟩ | ⟨_, h⟩
    · exact .inl ⟨_, _, by decide, h⟩
    · rcases unlessOut_next h with ⟨_, h⟩ | ⟨_, h⟩
      · exact .inl ⟨_, _, by decide, h⟩
      · exact .inl ⟨_, _, by decide, answer_next h⟩
  case encStart =>
    rcases unlessBusy_next h with ⟨_, h⟩ | ⟨hb, h⟩
    · exact .inl ⟨_, _, by decide, h⟩
    · obtain ⟨he, hd⟩ := (anyBusy_eq_false s).1 hb
      split at h
      · cases h
      · exact .inr (.inr ⟨he, hd, _, done_next h,
          .inr (.inr (.inr (.inr (.inl ⟨rfl, by omega, rfl⟩))))⟩)
  case decStart =>
    rcases unlessBusy_next h with ⟨_, h⟩ | ⟨hb, h⟩
    · exact .inl ⟨_, _, by decide, h⟩
    · obtain ⟨he, hd⟩ := (anyBusy_eq_false s).1 hb
      exact .inr (.inr ⟨he, hd, _, done_next h, .inr (.inr (.inr (.inr (.inr ⟨rfl, rfl⟩))))⟩)
  all_goals
    rcases unlessBusy_next h with ⟨_, h⟩ | ⟨_, h⟩
    · exact .inl ⟨_, _, by decide, h⟩
    · exact .inl ⟨_, _, by decide, answer_next h⟩

/-- A command word leads to a command. -/
theorem isCommand_of_decodeCmd {w : CmdWord} {i : Instr} (h : decodeCmd w = .ok i) : i.isCommand = true := by
  unfold decodeCmd decodeFields noOperand oneOperand at h
  split at h <;> (try split at h) <;> cases h <;> rfl

/-- What a command word can do. -/
theorem isCommand_commandStep {w : CmdWord} {s t : State} (h : commandStep w s = .next t) :
    (∃ code data, t = s.respond code data) ∨
    ∃ i, decodeCmd w = .ok i ∧ i.isCommand = true ∧ exec i s = .next t := by
  rcases commandStep_cases h with ⟨_, _, h⟩ | ⟨i, hi, h⟩
  · exact .inl ⟨_, _, h⟩
  · exact .inr ⟨i, hi, isCommand_of_decodeCmd hi, h⟩

/-! ## Logical bytes -/

/-- What a logical byte can do: the fold of R179, and then one of the cases of R180 to R184. -/
theorem field_cases {v : Byte} {s t : State} (h : field v s = .next t) :
    s.decBusy = true ∧ ∃ p, s.dPhase = .field p ∧
      ((∃ code, (code ≠ .ok ∨ p = .crc ∧ upd s.cfg s.rxCrc v = 0) ∧ t = terminate code (s.foldRx v)) ∨
       (p = .addrOrCmd ∧ ∃ a, t = { s.foldRx v with pktAddr := a, dPhase := .field .cmd }) ∨
       (p = .addrOrCmd ∧ t = { s.foldRx v with pktAddr := 0, pktCmd := v, dPhase := .field .len }) ∨
       (p = .cmd ∧ t = { s.foldRx v with pktCmd := v, dPhase := .field .len }) ∨
       (p = .len ∧ v.toNat ≤ s.cfg.maxLen ∧
         t = { s.foldRx v with
               pktLen := v, dIdx := 0, dPhase := if v = 0 then .field .crc else .field .data }) ∨
       (p = .data ∧ s.dIdx < s.cfg.payloadCap ∧
         t = { s.foldRx v with
               pktData := s.pktData.write s.dIdx v
               dIdx := s.dIdx + 1
               dPhase := if s.dIdx + 1 = s.pktLen.toNat then .field .crc else .field .data })) := by
  unfold field at h
  split at h
  · split at h
    · obtain ⟨hc, _, h⟩ := onByte_next h
      simp only [State.inContext, Bool.and_eq_true, beq_iff_eq] at hc
      exact ⟨hc.1, _, hc.2, .inr (.inl ⟨rfl, _, (Host.Outcome.next.inj h).symm⟩)⟩
    · obtain ⟨hc, _, h⟩ := onByte_next h
      simp only [State.inContext, Bool.and_eq_true, beq_iff_eq] at hc
      exact ⟨hc.1, _, hc.2, .inr (.inr (.inl ⟨rfl, (Host.Outcome.next.inj h).symm⟩))⟩
  · split at h
    · obtain ⟨hc, _, h⟩ := onByte_next h
      simp only [State.inContext, Bool.and_eq_true, beq_iff_eq] at hc
      exact ⟨hc.1, _, hc.2, .inl ⟨_, .inl (by decide), (Host.Outcome.next.inj h).symm⟩⟩
    · obtain ⟨hc, _, h⟩ := onByte_next h
      simp only [State.inContext, Bool.and_eq_true, beq_iff_eq] at hc
      exact ⟨hc.1, _, hc.2, .inr (.inr (.inr (.inl ⟨rfl, (Host.Outcome.next.inj h).symm⟩)))⟩
  · split at h
    · obtain ⟨hc, _, h⟩ := onByte_next h
      simp only [State.inContext, Bool.and_eq_true, beq_iff_eq] at hc
      exact ⟨hc.1, _, hc.2, .inl ⟨_, .inl (by decide), (Host.Outcome.next.inj h).symm⟩⟩
    · rename_i ho
      obtain ⟨hc, _, h⟩ := onByte_next h
      simp only [State.inContext, Bool.and_eq_true, beq_iff_eq] at hc
      exact ⟨hc.1, _, hc.2, .inr (.inr (.inr (.inr (.inl
        ⟨rfl, by simpa [lenOutOfRange] using ho, (Host.Outcome.next.inj h).symm⟩))))⟩
  · obtain ⟨hc, _, h⟩ := onByte_next h
    simp only [State.inContext, Bool.and_eq_true, beq_iff_eq] at hc
    split at h
    · exact ⟨hc.1, _, hc.2, .inr (.inr (.inr (.inr (.inr
        ⟨rfl, by assumption, (Host.Outcome.next.inj h).symm⟩))))⟩
    · cases h
  · obtain ⟨hc, _, h⟩ := onByte_next h
    simp only [State.inContext, Bool.and_eq_true, beq_iff_eq] at hc
    refine ⟨hc.1, _, hc.2, .inl ⟨_, ?_, (Host.Outcome.next.inj h).symm⟩⟩
    split
    · exact .inr ⟨rfl, by assumption⟩
    · exact .inl (by decide)
  · cases h
  · cases h

/-- A logical byte needs a field phase and a cell to write, and then it is taken (R179). -/
theorem field_next {v : Byte} {s : State} {p : FieldPhase} (hb : s.decBusy = true) (hp : s.dPhase = .field p)
    (hi : s.dPhase = .field .data → s.dIdx < s.cfg.payloadCap) : ∃ t, field v s = .next t := by
  have hc := inContext_logical hb hp
  rw [field_eq_exec hp]
  cases p with
  | addrOrCmd =>
    simp only [decodeWire]
    split
    · exact ⟨_, onByte_eq hc (by simp only [decodeWire, if_pos, *])⟩
    · rename_i hv
      exact ⟨_, onByte_eq hc (by simp only [decodeWire]; rw [if_neg hv])⟩
  | cmd =>
    simp only [decodeWire]
    split
    · exact ⟨_, onByte_eq hc (by simp only [decodeWire, if_pos, *])⟩
    · rename_i hv
      exact ⟨_, onByte_eq hc (by simp only [decodeWire]; rw [if_neg hv])⟩
  | len =>
    simp only [decodeWire]
    split
    · exact ⟨_, onByte_eq hc (by simp only [decodeWire, if_pos, *])⟩
    · exact ⟨_, onByte_eq hc (by simp only [decodeWire, if_neg, not_false_eq_true, *])⟩
  | data => exact ⟨_, (onByte_eq hc (i := .logData v) rfl).trans (if_pos (hi hp))⟩
  | crc => exact ⟨_, onByte_eq hc (i := .logCrc v) rfl⟩

/-! ## Wire bytes -/

/-- What a wire byte class can do: a scan step, an escape prefix, a restart of the frame, a bad pair, or the logical
byte it stands for. -/
theorem wire_cases {i : Instr} {s t : State} (hi : i.isCommand = false) (h : exec i s = .next t) :
    (s.decBusy = true ∧ s.dPhase = .sync ∧
      (t = { s with
             dSyncCnt := s.dSyncCnt + 1, rxCrc := fold s.cfg s.rxCrc (crcLead s.cfg),
             dPhase := .field .addrOrCmd } ∨
       (s.dSyncCnt + 1 ≠ s.cfg.syncLimit ∧ t = { s with dSyncCnt := s.dSyncCnt + 1 }) ∨
       t = terminate .syncError { s with dSyncCnt := s.dSyncCnt + 1 })) ∨
    (s.decBusy = true ∧ (∃ p, s.dPhase = .field p) ∧
      (s.dEsc = false ∧ t = { s with dEsc := true } ∨
       s.cfg.midframeFend = .resync ∧
         t = { s with
               rxCrc := fold s.cfg s.cfg.seed (crcLead s.cfg), dPhase := .field .addrOrCmd, dIdx := 0 } ∨
       t = terminate .staffingError { s with dEsc := false })) ∨
    ∃ v u, (u = s ∨ u = { s with dEsc := false }) ∧ field v u = .next t := by
  have hsync : s.inContext .sync = true → s.decBusy = true ∧ s.dPhase = .sync := by
    intro h
    simp only [State.inContext, beq_iff_eq] at h
    rcases wireContext_cases h with ⟨hb, ⟨_, hp⟩ | ⟨_, _, ⟨h, _⟩ | ⟨h, _⟩⟩⟩
    · exact ⟨hb, hp⟩
    · cases h
    · cases h
  have hfield : s.inContext .field = true → s.decBusy = true ∧ (∃ p, s.dPhase = .field p) ∧ s.dEsc = false := by
    intro h
    simp only [State.inContext, beq_iff_eq] at h
    rcases wireContext_cases h with ⟨hb, ⟨h, _⟩ | ⟨p, hp, ⟨_, he⟩ | ⟨h, _⟩⟩⟩
    · cases h
    · exact ⟨hb, ⟨p, hp⟩, he⟩
    · cases h
  have hesc : s.inContext .escaped = true → s.decBusy = true ∧ ∃ p, s.dPhase = .field p := by
    intro h
    simp only [State.inContext, beq_iff_eq] at h
    rcases wireContext_cases h with ⟨hb, ⟨h, _⟩ | ⟨p, hp, ⟨h, _⟩ | ⟨_, _⟩⟩⟩
    · cases h
    · cases h
    · exact ⟨hb, p, hp⟩
  have hlog : ∀ p, s.inContext (.logical p) = true → s.dPhase = .field p := by
    intro p h
    simp only [State.inContext, Bool.and_eq_true, beq_iff_eq] at h
    exact h.2
  cases i <;> try cases hi
  case syncFend =>
    obtain ⟨hc, _, h⟩ := onByte_next h
    obtain ⟨hb, hp⟩ := hsync hc
    exact .inl ⟨hb, hp, .inl (Host.Outcome.next.inj h).symm⟩
  case syncOther r =>
    obtain ⟨hc, _, h⟩ := onByte_next h
    obtain ⟨hb, hp⟩ := hsync hc
    have h := (Host.Outcome.next.inj h).symm
    refine .inl ⟨hb, hp, .inr ?_⟩
    split at h
    · exact .inr h
    · exact .inl ⟨by assumption, h⟩
  case fieldFesc =>
    obtain ⟨hc, _, h⟩ := onByte_next h
    obtain ⟨hb, hp, he⟩ := hfield hc
    exact .inr (.inl ⟨hb, hp, .inl ⟨he, (Host.Outcome.next.inj h).symm⟩⟩)
  case fieldRawFend =>
    obtain ⟨hc, _, h⟩ := onByte_next h
    obtain ⟨hb, hp, he⟩ := hfield hc
    split at h
    · exact .inr (.inr ⟨_, s, .inl rfl, h⟩)
    · exact .inr (.inl ⟨hb, hp, .inr (.inl ⟨by assumption, (Host.Outcome.next.inj h).symm⟩)⟩)
  case fieldLiteral r => exact .inr (.inr ⟨_, s, .inl rfl, (onByte_next h).2.2⟩)
  case escTfend => exact .inr (.inr ⟨_, _, .inr rfl, (onByte_next h).2.2⟩)
  case escTfesc => exact .inr (.inr ⟨_, _, .inr rfl, (onByte_next h).2.2⟩)
  case escBad r =>
    obtain ⟨hc, _, h⟩ := onByte_next h
    obtain ⟨hb, hp⟩ := hesc hc
    exact .inr (.inl ⟨hb, hp, .inr (.inr (Host.Outcome.next.inj h).symm)⟩)
  all_goals
    rename_i v
    obtain ⟨hc, hd, _⟩ := onByte_next h
    refine .inr (.inr ⟨v, s, .inl rfl, ?_⟩)
    rw [field_eq_exec (hlog _ hc), hd]
    exact h

/-- A byte's class is no command. -/
theorem isCommand_decodeWire (maxLen : Nat) (c : WireContext) (b : Byte) :
    (decodeWire maxLen c b).isCommand = false := by
  unfold decodeWire
  split <;> (try split) <;> (try split) <;> rfl

end Sys2Proof.Machine
end

