-- ==== Sys2Proof/Laws/Ends.lean ====
section
/-! SUPPORT. The rows of the opcode map (R81, R82), what `terminate` fixes (R174, R266), what is observed of a run
(R306), and runs of RX events taken one after the other. -/

namespace Sys2Proof.Machine

/-- An illegal word is answered `CR_ILLEGAL` (R82). -/
theorem commandStep_of_error {w : CmdWord} {e : IllegalWord} (h : decodeCmd w = .error e) (s : State) :
    commandStep w s = .next (s.replied .illegal 0x00) := by
  unfold commandStep
  rw [h]
  rfl

theorem rowNoOperand {op : Byte} {i : Instr} (h : ∀ a b, decodeFields op a b = noOperand i op a b) :
    RowNoOperand op i := by
  intro a b
  have hd : decodeCmd (cmdWord op a b) = noOperand i op a b := by rw [decodeCmd_cmdWord, h]
  refine ⟨hd, fun s hab => commandStep_of_error (e := .reservedOperand op a b) ?_ s⟩
  rw [hd, noOperand, if_neg]
  tauto

theorem rowOneOperand {op : Byte} {f : Byte → Instr} (h : ∀ a b, decodeFields op a b = oneOperand f op a b) :
    RowOneOperand op f := by
  intro a b
  have hd : decodeCmd (cmdWord op a b) = oneOperand f op a b := by rw [decodeCmd_cmdWord, h]
  refine ⟨hd, fun s hb => commandStep_of_error (e := .reservedOperand op a b) ?_ s⟩
  rw [hd, oneOperand, if_neg hb]

/-- A decode that ends after writing only registers of the decoder and of the packet has ended. -/
theorem terminate_ended {s u : State} {acc : Byte} (code : DecOutcome) (hacc : u.rxCrc = acc)
    (hcnt : u.dSyncCnt = s.dSyncCnt) (hidx : u.dIdx = s.dIdx) (hcrc : u.crcAcc = s.crcAcc)
    (henc : SameEncoder s u) (hcfg : u.cfg = s.cfg) (hports : u.ports = s.ports) :
    DecodeEnded s (terminate code u) code acc := by
  simp only [DecodeEnded, SameEncoder, terminate_decBusy, terminate_dPhase, terminate_dEsc, terminate_decOutcome,
    terminate_rxCrc, terminate_dSyncCnt, terminate_dIdx, terminate_crcAcc, terminate_txCrc, terminate_encBusy,
    terminate_encOutcome, terminate_encWire, terminate_encPtr, terminate_cfg, terminate_ports]
  exact ⟨trivial, trivial, trivial, trivial, hacc, hcnt, hidx, hcrc, henc, hcfg, hports⟩

/-! ## The end of a run (R306) -/

/-- What is observed does not depend on what the environment will still do. -/
@[simp] theorem observation_of_inputs (s : State) (as : List Agent) (ws : List CmdWord) (xs : List TxAnswer)
    (es : List RxEvent) :
    State.observation { s with ports := ⟨as, ws, xs, es, s.ports.responses, s.ports.line⟩ } = s.observation := rfl

@[simp] theorem observation_responses (s : State) :
    s.observation.ports.responses = s.ports.responses := rfl

@[simp] theorem observation_line (s : State) : s.observation.ports.line = s.ports.line := rfl

/-! ## Runs of RX events -/

/-- After the end of a decode no event is taken (R45). -/
theorem deliver_of_none {s : State} (h : s.wireContext = none) (es : List RxEvent) : deliver es s = some s := by
  cases es with
  | nil => rfl
  | cons e es => rw [deliver, h]

theorem deliver_of_next {s t : State} {c : WireContext} {e : RxEvent} (h : s.wireContext = some c)
    (ht : rxStep c e s = .next t) (es : List RxEvent) : deliver (e :: es) s = deliver es t := by
  rw [deliver, h]
  simp only [ht]

theorem deliver_append (xs ys : List RxEvent) (s : State) :
    deliver (xs ++ ys) s = (deliver xs s).bind (deliver ys) := by
  induction xs generalizing s with
  | nil => rfl
  | cons x xs ih =>
    cases h : s.wireContext with
    | none =>
      rw [deliver_of_none h, deliver_of_none h]
      exact (deliver_of_none h ys).symm
    | some c =>
      rw [List.cons_append, deliver.eq_2, deliver.eq_2, h]
      dsimp only
      cases rxStep c x s with
      | next t => exact ih t
      | fault r => rfl
      | refused r => rfl

end Sys2Proof.Machine
end

