-- ==== Sys2Proof/Laws/PerInstr.lean ====
section
/-! SUPPORT. The reserved operand bytes of each command (R81, R82), one lemma for each instruction. -/

namespace Sys2Proof.Laws

/-- How many operand columns of its row in R81 are not "0"; a wire byte has no such columns. -/
def operandCount : Instr → Nat
  | .crcInit _ | .crcUpdate _ | .pktSetAddr _ | .pktSetCmd _ | .pktSetLen _ | .pktRead _ => 1
  | .pktWrite _ _ => 2
  | .nop | .crcRead | .pktGetAddr | .pktGetCmd | .pktGetLen | .encStart | .decStart | .statusRead
  | .encOutcomeRead | .decOutcomeRead | .txCrcRead | .rxCrcRead => 0
  | .syncFend | .syncOther _ | .fieldFesc | .fieldRawFend | .fieldLiteral _ | .escTfend | .escTfesc
  | .escBad _ | .logAddrByte _ | .logBcastCmd _ | .logCmd _ | .logCmdAddrErr _ | .logLen _ | .logLenErr _
  | .logData _ | .logCrc _ => 0

/-- The command word of an instruction carries 0x00 in every operand byte that R81 shows as "0". -/
def ReservedZero.Statement (i : Instr) : Prop :=
  ∀ w, encode i = .command w →
    (operandCount i ≤ 1 → bOf w = 0) ∧ (operandCount i = 0 → aOf w = 0)

theorem ReservedZero.of_none {i : Instr} {op : Byte} (h : encode i = .command (cmdWord op 0 0)) :
    ReservedZero.Statement i := by
  intro w hw
  rw [h] at hw
  cases hw
  exact ⟨fun _ => bOf_cmdWord op 0 0, fun _ => aOf_cmdWord op 0 0⟩

theorem ReservedZero.of_one {i : Instr} {op a : Byte} (h : encode i = .command (cmdWord op a 0))
    (hc : operandCount i ≠ 0) : ReservedZero.Statement i := by
  intro w hw
  rw [h] at hw
  cases hw
  exact ⟨fun _ => bOf_cmdWord op a 0, fun h0 => absurd h0 hc⟩

theorem ReservedZero.of_two {i : Instr} (hc : operandCount i = 2) : ReservedZero.Statement i :=
  fun _ _ => ⟨fun h => by omega, fun h => by omega⟩

theorem ReservedZero.of_wire {i : Instr} {c : WireContext} {b : Byte} (h : encode i = .wire c b) :
    ReservedZero.Statement i := by
  intro w hw
  rw [h] at hw
  cases hw

theorem ReservedZero.nop : ReservedZero.Statement .nop := ReservedZero.of_none rfl

theorem ReservedZero.crcInit (seed : Byte) : ReservedZero.Statement (.crcInit seed) := ReservedZero.of_one rfl Nat.one_ne_zero

theorem ReservedZero.crcUpdate (byte : Byte) : ReservedZero.Statement (.crcUpdate byte) := ReservedZero.of_one rfl Nat.one_ne_zero

theorem ReservedZero.crcRead : ReservedZero.Statement .crcRead := ReservedZero.of_none rfl

theorem ReservedZero.pktSetAddr (addr : Byte) : ReservedZero.Statement (.pktSetAddr addr) := ReservedZero.of_one rfl Nat.one_ne_zero

theorem ReservedZero.pktSetCmd (cmd : Byte) : ReservedZero.Statement (.pktSetCmd cmd) := ReservedZero.of_one rfl Nat.one_ne_zero

theorem ReservedZero.pktSetLen (n : Byte) : ReservedZero.Statement (.pktSetLen n) := ReservedZero.of_one rfl Nat.one_ne_zero

theorem ReservedZero.pktWrite (index data : Byte) : ReservedZero.Statement (.pktWrite index data) := ReservedZero.of_two rfl

theorem ReservedZero.pktGetAddr : ReservedZero.Statement .pktGetAddr := ReservedZero.of_none rfl

theorem ReservedZero.pktGetCmd : ReservedZero.Statement .pktGetCmd := ReservedZero.of_none rfl

theorem ReservedZero.pktGetLen : ReservedZero.Statement .pktGetLen := ReservedZero.of_none rfl

theorem ReservedZero.pktRead (index : Byte) : ReservedZero.Statement (.pktRead index) := ReservedZero.of_one rfl Nat.one_ne_zero

theorem ReservedZero.encStart : ReservedZero.Statement .encStart := ReservedZero.of_none rfl

theorem ReservedZero.decStart : ReservedZero.Statement .decStart := ReservedZero.of_none rfl

theorem ReservedZero.statusRead : ReservedZero.Statement .statusRead := ReservedZero.of_none rfl

theorem ReservedZero.encOutcomeRead : ReservedZero.Statement .encOutcomeRead := ReservedZero.of_none rfl

theorem ReservedZero.decOutcomeRead : ReservedZero.Statement .decOutcomeRead := ReservedZero.of_none rfl

theorem ReservedZero.txCrcRead : ReservedZero.Statement .txCrcRead := ReservedZero.of_none rfl

theorem ReservedZero.rxCrcRead : ReservedZero.Statement .rxCrcRead := ReservedZero.of_none rfl

theorem ReservedZero.syncFend : ReservedZero.Statement .syncFend := ReservedZero.of_wire rfl

theorem ReservedZero.syncOther (r : Byte) : ReservedZero.Statement (.syncOther r) := ReservedZero.of_wire rfl

theorem ReservedZero.fieldFesc : ReservedZero.Statement .fieldFesc := ReservedZero.of_wire rfl

theorem ReservedZero.fieldRawFend : ReservedZero.Statement .fieldRawFend := ReservedZero.of_wire rfl

theorem ReservedZero.fieldLiteral (r : Byte) : ReservedZero.Statement (.fieldLiteral r) := ReservedZero.of_wire rfl

theorem ReservedZero.escTfend : ReservedZero.Statement .escTfend := ReservedZero.of_wire rfl

theorem ReservedZero.escTfesc : ReservedZero.Statement .escTfesc := ReservedZero.of_wire rfl

theorem ReservedZero.escBad (r : Byte) : ReservedZero.Statement (.escBad r) := ReservedZero.of_wire rfl

theorem ReservedZero.logAddrByte (v : Byte) : ReservedZero.Statement (.logAddrByte v) := ReservedZero.of_wire rfl

theorem ReservedZero.logBcastCmd (v : Byte) : ReservedZero.Statement (.logBcastCmd v) := ReservedZero.of_wire rfl

theorem ReservedZero.logCmd (v : Byte) : ReservedZero.Statement (.logCmd v) := ReservedZero.of_wire rfl

theorem ReservedZero.logCmdAddrErr (v : Byte) : ReservedZero.Statement (.logCmdAddrErr v) := ReservedZero.of_wire rfl

theorem ReservedZero.logLen (v : Byte) : ReservedZero.Statement (.logLen v) := ReservedZero.of_wire rfl

theorem ReservedZero.logLenErr (v : Byte) : ReservedZero.Statement (.logLenErr v) := ReservedZero.of_wire rfl

theorem ReservedZero.logData (v : Byte) : ReservedZero.Statement (.logData v) := ReservedZero.of_wire rfl

theorem ReservedZero.logCrc (v : Byte) : ReservedZero.Statement (.logCrc v) := ReservedZero.of_wire rfl

end Sys2Proof.Laws
end

