-- ==== Sys2Proof/Tests/Slice0.lean ====
section
/-! SUPPORT. Checks of single decodings and single steps, with values from spec/95_test_vectors.md, and for every
statement with hypotheses a state and operands that meet them. -/

namespace Sys2Proof.Tests

set_option Elab.async false

open Sys2Proof.Machine

/-! ## States to test on -/

/-- Whether a step answers a next state with the property `p`. -/
def holds (r : Result) (p : State → Bool) : Bool :=
  match r with
  | .next t => p t
  | .fault _ => false
  | .refused _ => false

/-- Whether a command answers `(code, data)` first of all. -/
def answers (r : Result) (code : RespCode) (data : Byte) : Bool :=
  holds r fun t => t.ports.responses == [⟨code, data⟩]

/-- After `ENC_START` of row 1 of table V-ENC. -/
def encoding : State :=
  { State.reset with
    pktAddr := 1
    pktCmd := 2
    encBusy := true
    encWire := [0xC0, 0x81, 0x02, 0x00, 0x75]
    txCrc := 0x75 }

/-- A decode in phase `p` whose accumulator stands at `acc`. -/
def decodingAt (p : Phase) (acc : Byte) : State :=
  { State.reset with decBusy := true, dPhase := p, rxCrc := acc, dSyncCnt := if p = .sync then 0 else 1 }

/-- After `DEC_START` from reset. -/
def scanning : State := decodingAt .sync 0xDE

/-- After `DEC_START`, then `RX C0`. -/
def fields : State := decodingAt (.field .addrOrCmd) 0x82

/-- After `DEC_START`, then `RX C0 DB`. -/
def escaping : State := { fields with dEsc := true }

/-- After `DEC_START`, then `RX C0 81`. -/
def atCmd : State := { decodingAt (.field .cmd) 0xE2 with pktAddr := 1 }

/-- After `DEC_START`, then `RX C0 03`. -/
def atLen : State := { decodingAt (.field .len) (T Config.default (0x82 ^^^ 0x03)) with pktCmd := 3 }

/-- A decode of a payload of 159 bytes that has taken `k` of them. -/
def atData (k : Nat) : State := { decodingAt (.field .data) 0x00 with pktLen := 159, dIdx := k }

/-- A decode at its checksum byte. -/
def atCrc (acc : Byte) : State := decodingAt (.field .crc) acc

/-- The same machine with `P_MIDFRAME_FEND = RESYNC`. -/
def resyncing (s : State) : State := { s with cfg.midframeFend := .resync }

/-! ## Well-formedness -/

theorem test_wf_syncOther : (Instr.syncOther 0xC0).wellFormed 159 = false := by decide
theorem test_wf_fieldLiteral_fesc : (Instr.fieldLiteral 0xDB).wellFormed 159 = false := by decide
theorem test_wf_fieldLiteral_fend : (Instr.fieldLiteral 0xC0).wellFormed 159 = false := by decide
theorem test_wf_escBad_tfend : (Instr.escBad 0xDC).wellFormed 159 = false := by decide
theorem test_wf_escBad_tfesc : (Instr.escBad 0xDD).wellFormed 159 = false := by decide
theorem test_wf_logAddrByte : (Instr.logAddrByte 0x7F).wellFormed 159 = false := by decide
theorem test_wf_logBcastCmd : (Instr.logBcastCmd 0x80).wellFormed 159 = false := by decide
theorem test_wf_logCmd : (Instr.logCmd 0x80).wellFormed 159 = false := by decide
theorem test_wf_logCmdAddrErr : (Instr.logCmdAddrErr 0x7F).wellFormed 159 = false := by decide
theorem test_wf_logLen : (Instr.logLen 160).wellFormed 159 = false := by decide
theorem test_wf_logLenErr : (Instr.logLenErr 159).wellFormed 159 = false := by decide

/-! ## Decoding (R79, R81, R82, R87) -/

/-- The CRC engine, bit by bit: `op`, operand A, operand B. -/
theorem test_decode_crc :
    decodeCmd 0b00000001_11011110_00000000 = .ok (.crcInit 0xDE) ∧
    decodeCmd 0b00000010_11000000_00000000 = .ok (.crcUpdate 0xC0) ∧
    decodeCmd 0b00000011_00000000_00000000 = .ok .crcRead := by decide +kernel

/-- The packet registers. -/
theorem test_decode_packet :
    decodeCmd 0b00010000_01111111_00000000 = .ok (.pktSetAddr 0x7F) ∧
    decodeCmd 0x11FF00 = .ok (.pktSetCmd 0xFF) ∧
    decodeCmd 0x129F00 = .ok (.pktSetLen 159) ∧
    decodeCmd 0b00010011_10011111_01110111 = .ok (.pktWrite 159 0x77) ∧
    decodeCmd 0x140000 = .ok .pktGetAddr ∧
    decodeCmd 0x150000 = .ok .pktGetCmd ∧
    decodeCmd 0x160000 = .ok .pktGetLen ∧
    decodeCmd 0x179F00 = .ok (.pktRead 159) := by decide +kernel

/-- The encoder and the decoder. -/
theorem test_decode_operations :
    decodeCmd 0b00100000_00000000_00000000 = .ok .encStart ∧
    decodeCmd 0b00100001_00000000_00000000 = .ok .decStart := by decide +kernel

/-- Status and diagnostics. -/
theorem test_decode_status :
    decodeCmd 0x000000 = .ok .nop ∧
    decodeCmd 0b00110000_00000000_00000000 = .ok .statusRead ∧
    decodeCmd 0x310000 = .ok .encOutcomeRead ∧
    decodeCmd 0x320000 = .ok .decOutcomeRead ∧
    decodeCmd 0x330000 = .ok .txCrcRead ∧
    decodeCmd 0x340000 = .ok .rxCrcRead := by decide +kernel

/-- The illegal words of section 2.3. -/
theorem test_decode_illegal :
    decodeCmd 0x000100 = .error (.reservedOperand 0x00 0x01 0x00) ∧
    decodeCmd 0x12A001 = .error (.reservedOperand 0x12 0xA0 0x01) ∧
    decodeCmd 0x040000 = .error (.undefinedOpcode 0x04) ∧
    decodeCmd 0xFF0000 = .error (.undefinedOpcode 0xFF) := by decide +kernel

/-- Raw bytes (R87). -/
theorem test_decode_raw :
    decodeWire 159 .sync 0b11000000 = .syncFend ∧ decodeWire 159 .sync 0xDB = .syncOther 0xDB ∧
    decodeWire 159 .field 0b11011011 = .fieldFesc ∧ decodeWire 159 .field 0xC0 = .fieldRawFend ∧
    decodeWire 159 .field 0x81 = .fieldLiteral 0x81 ∧
    decodeWire 159 .escaped 0b11011100 = .escTfend ∧ decodeWire 159 .escaped 0xDD = .escTfesc ∧
    decodeWire 159 .escaped 0xC0 = .escBad 0xC0 := by decide

/-- Logical bytes (R87). -/
theorem test_decode_logical :
    decodeWire 159 (.logical .addrOrCmd) 0b10000000 = .logAddrByte 0x80 ∧
    decodeWire 159 (.logical .addrOrCmd) 0x7F = .logBcastCmd 0x7F ∧
    decodeWire 159 (.logical .cmd) 0x7F = .logCmd 0x7F ∧
    decodeWire 159 (.logical .cmd) 0x80 = .logCmdAddrErr 0x80 ∧
    decodeWire 159 (.logical .len) 0x9F = .logLen 0x9F ∧
    decodeWire 159 (.logical .len) 0xA0 = .logLenErr 0xA0 ∧
    decodeWire 159 (.logical .data) 0xC0 = .logData 0xC0 ∧
    decodeWire 159 (.logical .crc) 0xDB = .logCrc 0xDB := by decide

/-- The opcode table's numbering: a command is one 24-bit word, a wire class one byte. -/
theorem test_decodeTableWord :
    decodeTableWord 24 0x12A000 = some (.pktSetLen 160) ∧ decodeTableWord 24 0x000001 = none ∧
    decodeTableWord 8 0xC0 = some .syncFend ∧ decodeTableWord 8 0x80 = some (.logAddrByte 0x80) := by
  decide +kernel

/-- The syntax of R84. -/
theorem test_assembly :
    (Instr.pktWrite 0x9F 0x0A).assembly = some "PKT_WRITE 0x9F, 0x0A" ∧
    (RxEvent.byte 0xC0).assembly = "RX 0xC0" := by decide +kernel

/-! ## Commands (sections 2.1, 2.2, 2.6) -/

theorem test_crcInit : holds (exec (.crcInit 0x5E) State.reset) (·.crcAcc == 0x5E) = true := by decide +kernel
theorem test_crcUpdate : holds (exec (.crcUpdate 0xC0) State.reset) (·.crcAcc == 0x82) = true := by decide +kernel
theorem test_crcUpdate_busy : holds (exec (.crcUpdate 0xAA) scanning) (·.crcAcc != 0xDE) = true := by decide +kernel
theorem test_crcRead : answers (exec .crcRead State.reset) .ok 0xDE = true := by decide +kernel
theorem test_pktSetAddr : holds (exec (.pktSetAddr 0x7F) State.reset) (·.pktAddr == 0x7F) = true := by decide +kernel
theorem test_pktSetAddr_range : answers (exec (.pktSetAddr 0x80) State.reset) .range 0 = true := by decide +kernel
theorem test_pktSetCmd : holds (exec (.pktSetCmd 0xFF) State.reset) (·.pktCmd == 0xFF) = true := by decide +kernel
theorem test_pktSetLen : holds (exec (.pktSetLen 159) State.reset) (·.pktLen == 0x9F) = true := by decide +kernel
theorem test_pktSetLen_busy : answers (exec (.pktSetLen 160) encoding) .busy 0 = true := by decide +kernel
theorem test_pktWrite :
    holds (exec (.pktWrite 159 0x77) State.reset) (·.pktData == [(159, 0x77)]) = true := by decide +kernel
theorem test_pktWrite_range : answers (exec (.pktWrite 160 0) State.reset) .range 0 = true := by decide +kernel
theorem test_pktRead :
    answers (exec (.pktRead 159) { State.reset with pktData := [(159, 0x77)] }) .ok 0x77 = true := by decide +kernel
theorem test_pktRead_busy : answers (exec (.pktRead 0) scanning) .busy 0 = true := by decide +kernel
theorem test_pktGetAddr : answers (exec .pktGetAddr encoding) .ok 0x01 = true := by decide +kernel
theorem test_pktGetCmd : answers (exec .pktGetCmd encoding) .ok 0x02 = true := by decide +kernel
theorem test_pktGetLen : answers (exec .pktGetLen (atData 0)) .busy 0 = true := by decide +kernel
theorem test_nop : answers (exec .nop scanning) .ok 0 = true := by decide +kernel
theorem test_statusRead : answers (exec .statusRead scanning) .ok 0x02 = true := by decide +kernel
theorem test_statusRead_enc : answers (exec .statusRead encoding) .ok 0x01 = true := by decide +kernel
theorem test_encOutcomeRead : answers (exec .encOutcomeRead scanning) .ok 0x08 = true := by decide +kernel
theorem test_encOutcomeRead_busy : answers (exec .encOutcomeRead encoding) .busy 0 = true := by decide +kernel
theorem test_decOutcomeRead : answers (exec .decOutcomeRead State.reset) .ok 0x08 = true := by decide +kernel
theorem test_decOutcomeRead_busy : answers (exec .decOutcomeRead scanning) .busy 0 = true := by decide +kernel
theorem test_txCrcRead : answers (exec .txCrcRead encoding) .busy 0 = true := by decide +kernel
theorem test_txCrcRead_done :
    answers (exec .txCrcRead { encoding with encBusy := false }) .ok 0x75 = true := by decide +kernel
theorem test_rxCrcRead : answers (exec .rxCrcRead State.reset) .ok 0x00 = true := by decide +kernel
theorem test_illegal : answers (commandStep 0x12A001 State.reset) .illegal 0 = true := by decide +kernel

/-! ## The encoder (section 2.4) -/

/-- Row 4: address byte, payload bytes and all are stuffed. -/
theorem test_encStart :
    holds (exec .encStart { State.reset with
        pktAddr := 0x5B, pktCmd := 1, pktLen := 3, pktData := [(0, 0xC0), (1, 0xDB)] })
      (fun t => t.encWire == [0xC0, 0xDB, 0xDD, 0x01, 0x03, 0xDB, 0xDC, 0xDB, 0xDD, 0x00, 0xD5] &&
        t.txCrc == 0xD5) = true := by decide +kernel

/-- Row 8: a broadcast whose checksum is stuffed. -/
theorem test_encStart_broadcast :
    holds (exec .encStart { State.reset with pktCmd := 0x1D })
      (·.encWire == [0xC0, 0x1D, 0x00, 0xDB, 0xDD]) = true := by decide +kernel

/-- The last `TX_ACK` of row 1. -/
theorem test_txAck_last :
    let t := txAck 0x75 { encoding with encPtr := 4 }
    (t.encBusy, t.encOutcome, t.encPtr) = (false, .ok, 5) := by decide +kernel

/-- `TX_FAIL` at once. -/
theorem test_txFail :
    let t := txFail encoding
    (t.encBusy, t.encOutcome, t.encPtr, t.ports.line) = (false, .transportError, 0, []) := by decide +kernel

/-! ## The decoder (section 2.5) -/

theorem test_decStart :
    holds (exec .decStart State.reset)
      (fun t => t.decBusy && t.rxCrc == 0xDE && t.dPhase == .sync && t.dSyncCnt == 0) = true := by decide +kernel

/-- D9: the accumulator after `C0`. -/
theorem test_syncFend :
    holds (exec .syncFend scanning) (fun t => t.rxCrc == 0x82 && t.dPhase == .field .addrOrCmd) = true := by
  decide +kernel

/-- D6: the 512th byte ends the scan. -/
theorem test_syncOther :
    holds (exec (.syncOther 0x00) { scanning with dSyncCnt := 511 })
      (fun t => t.decOutcome == .syncError && t.dSyncCnt == 512 && t.rxCrc == 0xDE) = true := by decide +kernel

/-- D5: the 512th byte may still be the marker. -/
theorem test_syncFend_last :
    holds (exec .syncFend { scanning with dSyncCnt := 511 })
      (fun t => t.decBusy && t.dSyncCnt == 512) = true := by decide +kernel

theorem test_fieldFesc :
    holds (exec .fieldFesc fields) (fun t => t.dEsc && t.rxCrc == 0x82) = true := by decide +kernel

/-- D24: a second `C0` is address 0x40 under `DATA`. -/
theorem test_fieldRawFend :
    holds (exec .fieldRawFend fields) (fun t => t.pktAddr == 0x40 && t.dPhase == .field .cmd) = true := by
  decide +kernel

/-- D25: a second `C0` starts again under `RESYNC`. -/
theorem test_fieldRawFend_resync :
    holds (exec .fieldRawFend (resyncing atCmd))
      (fun t => t.rxCrc == 0x82 && t.dPhase == .field .addrOrCmd) = true := by decide +kernel

/-- D10: the accumulator after `C0 81`. -/
theorem test_fieldLiteral :
    holds (exec (.fieldLiteral 0x81) fields) (fun t => t.pktAddr == 1 && t.rxCrc == 0xE2) = true := by
  decide +kernel

/-- D16: an escaped command 0xC0. -/
theorem test_escTfend :
    holds (exec .escTfend { atCmd with dEsc := true })
      (fun t => t.decOutcome == .addressError && t.rxCrc == 0x9F) = true := by decide +kernel

/-- Row 4 decoded: the address byte 0xDB. -/
theorem test_escTfesc :
    holds (exec .escTfesc escaping) (fun t => t.pktAddr == 0x5B && t.dEsc == false) = true := by decide +kernel

/-- D13: a marker inside a pair, in both modes. -/
theorem test_escBad :
    holds (exec (.escBad 0xC0) (resyncing escaping))
      (fun t => t.decOutcome == .staffingError && t.rxCrc == 0x82 && t.dEsc == false) = true := by decide +kernel

/-- D23: an address byte 0x80 is address 0. -/
theorem test_logAddrByte :
    holds (exec (.logAddrByte 0x80) { fields with pktAddr := 5 })
      (fun t => t.pktAddr == 0 && t.dPhase == .field .cmd) = true := by decide +kernel

theorem test_logBcastCmd :
    holds (exec (.logBcastCmd 0x03) { fields with pktAddr := 5 })
      (fun t => t.pktAddr == 0 && t.pktCmd == 3 && t.dPhase == .field .len) = true := by decide +kernel

theorem test_logCmd :
    holds (exec (.logCmd 0x02) atCmd) (fun t => t.pktCmd == 2 && t.dPhase == .field .len) = true := by
  decide +kernel

/-- D15. -/
theorem test_logCmdAddrErr :
    holds (exec (.logCmdAddrErr 0x82) atCmd)
      (fun t => t.decOutcome == .addressError && t.rxCrc == 0x65) = true := by decide +kernel

/-- D19. -/
theorem test_logLen :
    holds (exec (.logLen 0x9F) atLen)
      (fun t => t.pktLen == 0x9F && t.dPhase == .field .data && t.rxCrc == 0xBB) = true := by decide +kernel

/-- A length of 0 has no payload. -/
theorem test_logLen_zero :
    holds (exec (.logLen 0x00) atLen) (·.dPhase == .field .crc) = true := by decide +kernel

/-- D17. -/
theorem test_logLenErr :
    holds (exec (.logLenErr 0xA0) atLen)
      (fun t => t.decOutcome == .lengthError && t.rxCrc == 0x44) = true := by decide +kernel

theorem test_logData :
    holds (exec (.logData 0xAA) (atData 0))
      (fun t => t.pktData == [(0, 0xAA)] && t.dIdx == 1 && t.dPhase == .field .data) = true := by decide +kernel

theorem test_logData_last :
    holds (exec (.logData 0xAA) (atData 158)) (·.dPhase == .field .crc) = true := by decide +kernel

/-- D1: the accumulator before the last byte is that byte. -/
theorem test_logCrc :
    holds (exec (.logCrc 0x75) (atCrc 0x75))
      (fun t => t.decOutcome == .ok && t.rxCrc == 0x00 && t.decBusy == false) = true := by decide +kernel

/-- D20. -/
theorem test_logCrc_bad :
    holds (exec (.logCrc 0x76) (atCrc 0x75))
      (fun t => t.decOutcome == .checksumError && t.rxCrc == 0xE2) = true := by decide +kernel

/-- D14: a timeout inside an escape pair. -/
theorem test_rxTimeout :
    holds (rxStep .escaped .timeout escaping) (fun t => t.decOutcome == .timeout && t.rxCrc == 0x82) = true := by
  decide +kernel

/-- D8. -/
theorem test_rxError :
    holds (rxStep .sync .error scanning) (fun t => t.decOutcome == .transportError && t.rxCrc == 0xDE) = true := by
  decide +kernel

/-- A byte class outside its context is no step. -/
theorem test_noSuchStep : exec .syncFend State.reset = .fault .noSuchStep := by rfl

/-! ## Steps -/

theorem test_step_command :
    holds (step (State.reset.withFetchWord 24 0x02C000)) (·.crcAcc == 0x82) = true := by decide +kernel

theorem test_step_byte :
    holds (step (State.reset.withFetchWord 8 0xC0)) (·.dPhase == .field .addrOrCmd) = true := by decide +kernel

theorem test_step_logical :
    holds (step (State.reset.withFetchWord 8 0x81)) (·.pktAddr == 1) = true := by decide +kernel

/-- Section 2.8: `RST` during a decode. -/
theorem test_step_reset :
    holds (step { atData 3 with ports.turns := [.reset] })
      (fun t => t.decBusy == false && t.decOutcome == .none && t.pktLen == 0 && t.crcAcc == 0xDE) = true := by
  decide +kernel

/-- Without a turn the machine stands still. -/
theorem test_step_idle : step State.reset = .next State.reset := by rfl

theorem test_core : core.reset = State.reset := by rfl

/-! ## Witnesses: the hypotheses of each statement can be met -/

theorem witness_DecodeEncodeRoundTrip :
    (Instr.pktWrite 0xFF 0xFF).wellFormed 159 = true ∧ (Instr.syncOther 0xBF).wellFormed 159 = true ∧
    (Instr.fieldLiteral 0xDC).wellFormed 159 = true ∧ (Instr.escBad 0xDB).wellFormed 159 = true ∧
    (Instr.logAddrByte 0x80).wellFormed 159 = true ∧ (Instr.logBcastCmd 0x7F).wellFormed 159 = true ∧
    (Instr.logCmd 0x7F).wellFormed 159 = true ∧ (Instr.logCmdAddrErr 0x80).wellFormed 159 = true ∧
    (Instr.logLen 159).wellFormed 159 = true ∧ (Instr.logLenErr 160).wellFormed 159 = true := by decide

theorem witness_DecodedEncodesBack :
    decode 159 (.command 0x13FFFF) = .ok (.pktWrite 0xFF 0xFF) ∧
    decode 159 (.wire (.logical .len) 0xA0) = .ok (.logLenErr 0xA0) := by decide +kernel

theorem witness_IllegalWordsAreRefused :
    (∃ e, decodeCmd 0x040000 = .error e) ∧ (∃ e, decodeCmd 0x000001 = .error e) ∧
    (∃ e, decodeCmd 0x12A001 = .error e) ∧
    decodeCmd 0x000000 = .ok .nop ∧ (∃ t, commandStep 0x000000 State.reset = .next t) ∧
    decodeCmd 0x340000 = .ok .rxCrcRead ∧ ∃ t, commandStep 0x340000 scanning = .next t :=
  ⟨⟨_, rfl⟩, ⟨_, rfl⟩, ⟨_, rfl⟩, rfl, ⟨_, rfl⟩, rfl, ⟨_, rfl⟩⟩

/-- The host is about to issue `CRC_UPDATE 0xC0`. -/
def issuing : State := { State.reset with ports.turns := [.host], ports.commands := [0x02C000] }

theorem witness_StepRunsDecodedCommand :
    issuing.ports.turns = .host :: [] ∧ issuing.ports.commands = 0x02C000 :: [] ∧
    decodeCmd 0x02C000 = .ok (.crcUpdate 0xC0) := by decide +kernel

/-- `s` with the decoder's turn next and the event `e` waiting. -/
def receiving (e : RxEvent) (s : State) : State :=
  { s with ports.turns := [.decoder], ports.events := [e] }

/-- One state for each branch: the scan, inside a pair, and the three kinds of raw byte outside one; then the two
events without a byte. -/
theorem witness_StepDispatchesRxEvent :
    [receiving (.byte 0xC0) scanning, receiving (.byte 0xDC) escaping, receiving (.byte 0xDB) fields,
      receiving (.byte 0xC0) fields, receiving (.byte 0x81) fields, receiving .timeout escaping,
      receiving .error scanning].all (fun s =>
        s.ports.turns == [.decoder] && s.ports.events.length == 1 && s.decBusy && s.dPhase != .idle) = true := by
  decide +kernel

theorem witness_PortTurnsFollowBusyFlags :
    let s := { encoding with ports.turns := [.encoder], ports.answers := [.ack] };
    (s.ports.turns = .encoder :: [] ∧ s.ports.answers = .ack :: [] ∧ s.encBusy = true ∧
      s.encWire[s.encPtr]? = some 0xC0) ∧
    (let s := { scanning with ports.turns := [.encoder] };
      s.ports.turns = .encoder :: [] ∧ s.encBusy = false) ∧
    (let s := { encoding with ports.turns := [.decoder] };
      s.ports.turns = .decoder :: [] ∧ s.decBusy = false) := by decide +kernel

theorem witness_RstStepRestoresReset :
    ({ atData 3 with ports.turns := [.reset] } : State).ports.turns = .reset :: [] := by decide

/-- Legal states: idle, in an encode, and in every phase of a decode. -/
theorem witness_StepKeepsLegalStates :
    encoding.Inv ∧ scanning.Inv ∧ fields.Inv ∧ escaping.Inv ∧ atCmd.Inv ∧ atLen.Inv ∧ (atData 158).Inv ∧
    (atCrc 0x75).Inv ∧ ({ scanning with dSyncCnt := 511 } : State).Inv := by
  refine ⟨?_, ?_, ?_, ?_, ?_, ?_, ?_, ?_, ?_⟩ <;> decide +kernel

/-- The parameters at the ends of their ranges. -/
theorem witness_ResetStateIsLegal :
    Config.default.Valid ∧
    ({ Config.default with syncLimit := 1, maxLen := 0, payloadCap := 1 } : Config).Valid ∧
    ({ Config.default with syncLimit := 1023, maxLen := 255, payloadCap := 256 } : Config).Valid := by
  decide +kernel

theorem witness_StepKeepsWireImageCurrent :
    let s := { encoding with ports.turns := [.encoder], ports.answers := [.ack] }
    s.Inv ∧ s.WireImageCurrent ∧ holds (step s) (fun t => t.encBusy && t.encPtr == 1) = true := by
  decide +kernel

/-- Over, with turns left and an event still with the transport. -/
def ended : State :=
  { State.reset with ports.turns := [.decoder, .host, .encoder], ports.events := [.byte 0xC0] }

theorem witness_EndedRunStaysAsObserved :
    State.reset.RunEnded ∧ ended.RunEnded ∧ ∃ t, step ended = .next t :=
  ⟨by decide +kernel, by decide +kernel, _, rfl⟩

/-- A run with a command left, an operation in flight or a reset pending is not over. -/
theorem test_runEnded_not :
    ¬ issuing.RunEnded ∧ ¬ encoding.RunEnded ∧ ¬ scanning.RunEnded ∧
    ¬ ({ State.reset with ports.turns := [.host, .reset] } : State).RunEnded := by decide +kernel

theorem witness_StepKeepsParameters : ∃ t, step (receiving .timeout scanning) = .next t := ⟨_, rfl⟩

theorem witness_FoldingOwnValueGivesZero : Config.default.Valid := by decide +kernel

theorem witness_OnlyCrcCommandsWriteAccumulator :
    holds (step issuing) (fun t => t.crcAcc != issuing.crcAcc) = true ∧
    holds (step { issuing with ports.commands := [0x015E00] }) (fun t => t.crcAcc != issuing.crcAcc) = true ∧
    holds (step { State.reset with crcAcc := 0, ports.turns := [.reset] }) (fun t => t.crcAcc != 0) = true := by
  decide +kernel

theorem witness_AccumulatorInfluencesNothingElse :
    Instr.encStart ≠ .crcRead ∧ (∀ x, Instr.encStart ≠ .crcInit x) ∧ (∀ x, Instr.encStart ≠ .crcUpdate x) ∧
    ∃ t, exec .encStart State.reset = .next t :=
  ⟨by decide, by simp, by simp, _, rfl⟩

theorem witness_PktSetAddrWritesAddress :
    (State.reset.encBusy = false ∧ State.reset.decBusy = false ∧ (0x7F : Byte).toNat ≤ 0x7F) ∧
    (encoding.encBusy = true ∨ encoding.decBusy = true) ∧ 0x7F < (0x80 : Byte).toNat := by decide

theorem witness_PktSetCmdWritesCommand :
    (State.reset.encBusy = false ∧ State.reset.decBusy = false) ∧
    (scanning.encBusy = true ∨ scanning.decBusy = true) := by decide

theorem witness_PktSetLenWritesLength :
    (State.reset.encBusy = false ∧ State.reset.decBusy = false ∧ (159 : Byte).toNat ≤ State.reset.cfg.maxLen) ∧
    (encoding.encBusy = true ∨ encoding.decBusy = true) ∧ State.reset.cfg.maxLen < (160 : Byte).toNat := by decide

theorem witness_PktWriteStoresOneCell :
    (State.reset.pktData.wf = true ∧ State.reset.encBusy = false ∧ State.reset.decBusy = false ∧
      (159 : Byte).toNat < State.reset.cfg.payloadCap) ∧
    (scanning.encBusy = true ∨ scanning.decBusy = true) ∧ State.reset.cfg.payloadCap ≤ (160 : Byte).toNat := by
  decide

theorem witness_PktGetReadsRegister : encoding.decBusy = false ∧ scanning.decBusy = true := by decide

theorem witness_PktReadReadsOneCell :
    (encoding.decBusy = false ∧ (159 : Byte).toNat < encoding.cfg.payloadCap) ∧ scanning.decBusy = true ∧
    encoding.cfg.payloadCap ≤ (160 : Byte).toNat := by decide

theorem witness_EncStartLatchesFrame :
    let s := { State.reset with pktLen := 159 };
    (s.encBusy = false ∧ s.decBusy = false ∧ s.cfg.Valid ∧ s.pktLen.toNat ≤ s.cfg.maxLen) ∧
    (scanning.encBusy = true ∨ scanning.decBusy = true) := by decide +kernel

/-- The first offer and the last. -/
theorem witness_TxAckEmitsOfferedByte :
    State.reset.encBusy = false ∧
    (encoding.encBusy = true ∧ encoding.encWire[encoding.encPtr]? = some 0xC0) ∧
    (let s := { encoding with encPtr := 4 };
      s.encBusy = true ∧ s.encWire[s.encPtr]? = some 0x75 ∧ s.encPtr + 1 = s.encWire.length) := by decide

theorem witness_TxFailAbortsEncode : encoding.offer = some 0xC0 := by decide

theorem witness_StuffingIsInverted : destuff [0xDB, 0xDC, 0x00, 0xDB, 0xDD] = some [0xC0, 0x00, 0xDB] := by decide

theorem witness_FrameLengthIsBounded :
    ((0 : Byte).toNat = ([] : List Byte).length ∧ ([] : List Byte).length < 0xC0) ∧
    ((191 : Byte).toNat = (List.replicate 191 (0 : Byte)).length ∧
      (List.replicate 191 (0 : Byte)).length < 0xC0) ∧ (0x7F : Byte).toNat ≤ 0x7F := by decide +kernel

theorem witness_AcknowledgedEncodeEmitsFrame :
    encoding.encBusy = true ∧ encoding.encPtr = 0 ∧ 1 ≤ encoding.encWire.length ∧ encoding.encWire.length = 5 := by
  decide

theorem witness_DecStartBeginsScan :
    (State.reset.encBusy = false ∧ State.reset.decBusy = false) ∧
    (encoding.encBusy = true ∨ encoding.decBusy = true) := by decide

theorem witness_TimeoutAndErrorEndDecode :
    [scanning, fields, escaping, atCmd, atLen, atData 158, atCrc 0x75].all
      (fun s => s.decBusy && s.dPhase != .idle) = true := by decide +kernel

/-- The 511th byte and the 512th. -/
theorem witness_SyncScansForMarker :
    let s := { scanning with dSyncCnt := 511 };
    (scanning.decBusy = true ∧ scanning.dPhase = .sync ∧ scanning.dSyncCnt + 1 ≠ scanning.cfg.syncLimit) ∧
    (s.decBusy = true ∧ s.dPhase = .sync ∧ s.dSyncCnt + 1 = s.cfg.syncLimit) ∧ (0xDB : Byte) ≠ 0xC0 := by decide

theorem witness_EscapePairsAreUndone :
    escaping.Inv ∧ escaping.decBusy = true ∧ escaping.dPhase = .field .addrOrCmd ∧ escaping.dEsc = true ∧
    (0xDB : Byte) ≠ 0xDC ∧ (0xDB : Byte) ≠ 0xDD := by decide +kernel

theorem witness_EscapePrefixIsNotFolded :
    fields.decBusy = true ∧ fields.dPhase = .field .addrOrCmd ∧ fields.dEsc = false := by decide

/-- Both values of `P_MIDFRAME_FEND`. -/
theorem witness_RawMarkerInsideFrame :
    (fields.Inv ∧ fields.decBusy = true ∧ fields.dPhase = .field .addrOrCmd ∧ fields.dEsc = false ∧
      fields.cfg.midframeFend = .data) ∧
    (let s := resyncing (atData 158);
      s.Inv ∧ s.decBusy = true ∧ s.dPhase = .field .data ∧ s.dEsc = false ∧
      s.cfg.midframeFend = .resync) := by
  refine ⟨⟨?_, ?_⟩, ?_, ?_⟩ <;> decide +kernel

theorem witness_LogicalBytesAreFoldedFirst :
    (atData 158).Inv ∧ (atData 158).decBusy = true ∧ (atData 158).dPhase = .field .data ∧
    (atData 158).dEsc = false ∧ (0xC1 : Byte) ≠ 0xC0 ∧ (0xC1 : Byte) ≠ 0xDB := by decide +kernel

theorem witness_AddressOrCommandByte :
    fields.decBusy = true ∧ fields.dPhase = .field .addrOrCmd ∧ 0x80 ≤ (0x80 : Byte).toNat ∧
    (0x7F : Byte).toNat < 0x80 := by decide

theorem witness_CommandByteAfterAddress :
    atCmd.decBusy = true ∧ atCmd.dPhase = .field .cmd ∧ (0x7F : Byte).toNat < 0x80 ∧
    0x80 ≤ (0x80 : Byte).toNat := by decide

theorem witness_LengthByte :
    atLen.decBusy = true ∧ atLen.dPhase = .field .len ∧ (159 : Byte).toNat ≤ atLen.cfg.maxLen ∧
    atLen.cfg.maxLen < (160 : Byte).toNat := by decide +kernel

theorem witness_PayloadByteFillsCell :
    let s := atData 158
    s.pktData.wf = true ∧ s.decBusy = true ∧ s.dPhase = .field .data ∧ s.dIdx < s.cfg.payloadCap := by decide

/-- The right checksum byte and a wrong one. -/
theorem witness_ChecksumByteDecides :
    let s := atCrc 0x75
    s.pktData.wf = true ∧ s.decBusy = true ∧ s.dPhase = .field .crc ∧
    T s.cfg (s.rxCrc ^^^ 0x75) = 0 ∧ T s.cfg (s.rxCrc ^^^ 0x76) ≠ 0 := by decide +kernel

theorem witness_TerminateLeavesPacketFree :
    fields.cfg.Valid ∧ fields.pktData.wf = true ∧ DecOutcome.timeout ≠ .ok := by decide +kernel

theorem witness_OkDecodeHasZeroResidue :
    (receiving (.byte 0x75) (atCrc 0x75)).decBusy = true ∧
    holds (step (receiving (.byte 0x75) (atCrc 0x75)))
      (fun t => t.decBusy == false && t.decOutcome == .ok) = true := by decide +kernel

/-- The longest payload after the longest scan. -/
theorem witness_EncodedFrameDecodesBack :
    let s := State.reset
    let d := List.replicate 159 (0xC0 : Byte)
    let junk := List.replicate 511 (0xDB : Byte)
    s.cfg.Valid ∧ s.pktData.wf = true ∧ s.encBusy = false ∧ s.decBusy = false ∧ (0x7F : Byte).toNat ≤ 0x7F ∧
    d.length ≤ s.cfg.maxLen ∧ FEND ∉ junk ∧ junk.length + 1 ≤ s.cfg.syncLimit := by decide +kernel

theorem witness_DecodeEndsWithinBound :
    let s := State.reset
    s.Inv ∧ s.cfg.midframeFend = .data ∧ s.encBusy = false ∧ s.decBusy = false ∧
    s.cfg.syncLimit + 2 * (s.cfg.maxLen + 4) ≤ (List.replicate 838 (RxEvent.byte 0x00)).length := by
  decide +kernel

theorem witness_NopAndStatusAlwaysAnswer : encoding.Consistent ∧ scanning.Consistent := by decide

theorem witness_OutcomeReadsReturnOutcome :
    scanning.encBusy = false ∧ encoding.encBusy = true ∧ encoding.decBusy = false ∧ scanning.decBusy = true := by
  decide

theorem witness_CrcReadsReturnChecksums :
    scanning.encBusy = false ∧ encoding.encBusy = true ∧ encoding.decBusy = false ∧ scanning.decBusy = true := by
  decide

theorem witness_EveryCommandRespondsOnce : State.reset.Inv ∧ encoding.Inv ∧ scanning.Inv := by
  refine ⟨?_, ?_, ?_⟩ <;> decide +kernel

theorem witness_NoCommandEndsOperation :
    (encoding.encBusy = true ∧ holds (commandStep 0x210000 encoding) (·.encBusy) = true) ∧
    (scanning.decBusy = true ∧ holds (commandStep 0x200000 scanning) (·.decBusy) = true) := by decide +kernel

/-- A transport that acknowledges five offers and holds the reply D1. -/
def line : State :=
  { State.reset with
    ports.answers := List.replicate 5 .ack
    ports.events := [.byte 0xC0, .byte 0x81, .byte 0x02, .byte 0x00, .byte 0x75] }

theorem witness_BroadcastRequestReadsNothing :
    (⟨0, 3, []⟩ : HostPacket).addr = 0 ∧ (request 10 ⟨0, 3, []⟩ line).isSome = true := by decide +kernel

/-- Addressed and broadcast. -/
theorem witness_RequestTrueMeansBothOk :
    (request 10 ⟨1, 2, []⟩ line).map (·.1) = some true ∧ (⟨1, 2, []⟩ : HostPacket).addr ≠ 0 ∧
    (request 10 ⟨0, 3, []⟩ line).map (·.1) = some true := by decide +kernel

end Sys2Proof.Tests
end

section
/-! The parameters are constants of a machine (R2, R38): one lemma for each layer of a step, from a logical byte
up to a turn, each over the cases that layer's inversion lemma gives. -/

namespace Sys2Proof.Machine

theorem command_keeps_cfg {i : Instr} {s t : State} (hi : i.isCommand = true) (h : exec i s = .next t) :
    t.cfg = s.cfg := by
  rcases command_cases hi h with
    ⟨_, _, _, rfl⟩ | ⟨_, _, _, rfl⟩ | ⟨_, _, u, rfl, hu⟩
  · rfl
  · rfl
  · rcases hu with ⟨_, _, rfl⟩ | ⟨_, _, rfl⟩ | ⟨_, _, _, rfl⟩ | ⟨_, _, _, _, rfl⟩ | ⟨_, _, rfl⟩ | ⟨_, rfl⟩ <;> rfl

theorem commandStep_keeps_cfg {w : CmdWord} {s t : State} (h : commandStep w s = .next t) : t.cfg = s.cfg := by
  rcases isCommand_commandStep h with ⟨_, _, rfl⟩ | ⟨_, _, hi, h⟩
  · rfl
  · exact command_keeps_cfg hi h

theorem field_keeps_cfg {v : Byte} {s t : State} (h : field v s = .next t) : t.cfg = s.cfg := by
  obtain ⟨_, _, _, hcases⟩ := field_cases h
  rcases hcases with
    ⟨code, _, rfl⟩ | ⟨_, _, rfl⟩ | ⟨_, rfl⟩ | ⟨_, rfl⟩ | ⟨_, _, rfl⟩ | ⟨_, _, rfl⟩
  · exact terminate_cfg (s.foldRx v) code
  all_goals rfl

theorem wire_keeps_cfg {i : Instr} {s t : State} (hi : i.isCommand = false) (h : exec i s = .next t) :
    t.cfg = s.cfg := by
  rcases wire_cases hi h with ⟨_, _, hsync⟩ | ⟨_, _, hraw⟩ | ⟨v, u, hu, hfield⟩
  · rcases hsync with rfl | ⟨_, rfl⟩ | rfl
    · rfl
    · rfl
    · exact terminate_cfg _ _
  · rcases hraw with ⟨_, rfl⟩ | ⟨_, rfl⟩ | rfl
    · rfl
    · rfl
    · exact terminate_cfg _ _
  · have hcfg : t.cfg = u.cfg := field_keeps_cfg hfield
    rcases hu with rfl | rfl <;> exact hcfg

theorem rxStep_keeps_cfg {c : WireContext} {e : RxEvent} {s t : State} (h : rxStep c e s = .next t) :
    t.cfg = s.cfg := by
  rcases rxStep_cases h with ⟨r, _, h⟩ | ⟨_, rfl⟩ | ⟨_, rfl⟩
  · exact wire_keeps_cfg (isCommand_decodeWire _ c r) h
  · exact terminate_cfg s _
  · exact terminate_cfg s _

@[simp] theorem txStep_cfg (b : Byte) (answer : TxAnswer) (s : State) : (txStep b answer s).cfg = s.cfg := by
  cases answer with
  | ack => exact txAck_cfg s b
  | fail => exact txFail_cfg s

theorem turn_keeps_cfg {a : Agent} {s t : State} (h : turn a s = .next t) : t.cfg = s.cfg := by
  rcases turn_cases h with
    rfl | ⟨_, _, _, _, h⟩ | ⟨_, b, x, _, _, _, rfl⟩ | ⟨_, _, _, _, _, _, h⟩ | ⟨_, rfl⟩
  · rfl
  · exact (commandStep_keeps_cfg h).trans rfl
  · exact txStep_cfg b x _
  · exact (rxStep_keeps_cfg h).trans rfl
  · exact State.rst_cfg s

/-- Settles O14: a step is nothing or a turn, and no turn changes the parameters. -/
theorem stepKeepsParameters : Obligations.StepKeepsParameters := by
  intro s t h
  rcases step_cases h with ⟨_, rfl⟩ | ⟨_, _, _, h⟩
  · rfl
  · exact (turn_keeps_cfg h).trans rfl

end Sys2Proof.Machine
end

section
/-! What the decoder leaves alone (R21, R62): no RX event writes `CRC_ACC` or a register of the encoder. -/

namespace Sys2Proof.Machine

theorem terminate_sameEncoder (code : DecOutcome) (s : State) : SameEncoder s (terminate code s) :=
  ⟨terminate_txCrc s code, terminate_encBusy s code, terminate_encOutcome s code, terminate_encWire s code,
    terminate_encPtr s code⟩

theorem field_keeps_crcAcc_and_encoder {v : Byte} {s t : State} (h : field v s = .next t) :
    t.crcAcc = s.crcAcc ∧ SameEncoder s t := by
  obtain ⟨_, _, _, hcases⟩ := field_cases h
  rcases hcases with
    ⟨code, _, rfl⟩ | ⟨_, _, rfl⟩ | ⟨_, rfl⟩ | ⟨_, rfl⟩ | ⟨_, _, rfl⟩ | ⟨_, _, rfl⟩
  · exact ⟨terminate_crcAcc (s.foldRx v) code, terminate_sameEncoder code (s.foldRx v)⟩
  all_goals exact ⟨rfl, rfl, rfl, rfl, rfl, rfl⟩

theorem wire_keeps_crcAcc_and_encoder {i : Instr} {s t : State} (hi : i.isCommand = false)
    (h : exec i s = .next t) : t.crcAcc = s.crcAcc ∧ SameEncoder s t := by
  rcases wire_cases hi h with ⟨_, _, hsync⟩ | ⟨_, _, hraw⟩ | ⟨v, u, hu, hfield⟩
  · rcases hsync with rfl | ⟨_, rfl⟩ | rfl
    · exact ⟨rfl, rfl, rfl, rfl, rfl, rfl⟩
    · exact ⟨rfl, rfl, rfl, rfl, rfl, rfl⟩
    · exact ⟨terminate_crcAcc _ _, terminate_sameEncoder _ { s with dSyncCnt := s.dSyncCnt + 1 }⟩
  · rcases hraw with ⟨_, rfl⟩ | ⟨_, rfl⟩ | rfl
    · exact ⟨rfl, rfl, rfl, rfl, rfl, rfl⟩
    · exact ⟨rfl, rfl, rfl, rfl, rfl, rfl⟩
    · exact ⟨terminate_crcAcc _ _, terminate_sameEncoder _ { s with dEsc := false }⟩
  · have hframe : t.crcAcc = u.crcAcc ∧ SameEncoder u t := field_keeps_crcAcc_and_encoder hfield
    rcases hu with rfl | rfl <;> exact hframe

theorem rxStep_keeps_crcAcc_and_encoder {c : WireContext} {e : RxEvent} {s t : State}
    (h : rxStep c e s = .next t) : t.crcAcc = s.crcAcc ∧ SameEncoder s t := by
  rcases rxStep_cases h with ⟨r, _, h⟩ | ⟨_, rfl⟩ | ⟨_, rfl⟩
  · exact wire_keeps_crcAcc_and_encoder (isCommand_decodeWire _ c r) h
  · exact ⟨terminate_crcAcc s _, terminate_sameEncoder _ s⟩
  · exact ⟨terminate_crcAcc s _, terminate_sameEncoder _ s⟩

@[simp] theorem txStep_crcAcc (b : Byte) (answer : TxAnswer) (s : State) :
    (txStep b answer s).crcAcc = s.crcAcc := by
  cases answer with
  | ack => exact txAck_crcAcc s b
  | fail => exact txFail_crcAcc s

end Sys2Proof.Machine
end

section
/-! The legal states in three parts, one for each group of registers (R42; R50; R33, R36, R37), so that a step has
to answer only for the parts it writes. -/

namespace Sys2Proof.Machine

/-- `PKT_LEN` within its limit, and the payload cells legal (R42.2, R50). -/
def State.PacketLegal (s : State) : Prop := s.pktLen.toNat ≤ s.cfg.maxLen ∧ s.CellsLegal

/-- The wire image and the place in it (R42.6, R33). -/
def State.EncoderLegal (s : State) : Prop :=
  (s.encBusy = true → s.encPtr < s.encWire.length) ∧ s.encPtr ≤ s.encWire.length ∧
    (s.cfg.maxLen < 0xC0 → s.encWire.length ≤ 2 * s.cfg.maxLen + 8)

/-- The phase with what depends on it, and the decoder's counters (R42.3 to R42.5, R36, R37). -/
def State.DecoderLegal (s : State) : Prop :=
  (s.decBusy = true ↔ s.dPhase ≠ .idle) ∧ (s.dEsc = true → s.dPhase.isField = true) ∧
    (s.dPhase = .field .data → s.dIdx < s.pktLen.toNat) ∧ s.dSyncCnt ≤ s.cfg.syncLimit ∧
    (s.dPhase = .sync → s.dSyncCnt < s.cfg.syncLimit) ∧ s.dIdx ≤ s.cfg.maxLen

theorem inv_iff {s : State} :
    s.Inv ↔ s.cfg.Valid ∧ ¬(s.encBusy = true ∧ s.decBusy = true) ∧ s.PacketLegal ∧ s.EncoderLegal ∧
      s.DecoderLegal := by
  unfold State.PacketLegal State.EncoderLegal State.DecoderLegal
  tauto

/-- In a legal state a decode in progress excludes an encode (R42.1). -/
theorem encBusy_eq_false_of_inv {s : State} (hs : s.Inv) (hb : s.decBusy = true) : s.encBusy = false := by
  obtain ⟨_, hexcl, _⟩ := inv_iff.1 hs
  simpa [hb] using hexcl

theorem State.EncoderLegal.of_sameEncoder {s t : State} (hs : s.EncoderLegal) (hsame : SameEncoder s t)
    (hcfg : t.cfg = s.cfg) : t.EncoderLegal := by
  obtain ⟨_, hbusy, _, hwire, hptr⟩ := hsame
  simpa only [State.EncoderLegal, hbusy, hwire, hptr, hcfg] using hs

/-- The decoder is legal in phase `IDLE` when its counters are in range. -/
theorem decoderLegal_idle {s : State} (hb : s.decBusy = false) (hp : s.dPhase = .idle) (he : s.dEsc = false)
    (hcnt : s.dSyncCnt ≤ s.cfg.syncLimit) (hidx : s.dIdx ≤ s.cfg.maxLen) : s.DecoderLegal := by
  simp [State.DecoderLegal, hb, hp, he, hcnt, hidx]

/-- The decoder is legal in phase `SYNC` outside an escape pair when the scan is below its limit. -/
theorem decoderLegal_sync {s : State} (hb : s.decBusy = true) (hp : s.dPhase = .sync) (he : s.dEsc = false)
    (hcnt : s.dSyncCnt < s.cfg.syncLimit) (hidx : s.dIdx ≤ s.cfg.maxLen) : s.DecoderLegal := by
  simp [State.DecoderLegal, hb, hp, he, hcnt, hcnt.le, hidx]

/-- The decoder is legal in a field phase when its counters are in range, `D_IDX` below `PKT_LEN` in `DATA`. -/
theorem decoderLegal_field {s : State} {p : FieldPhase} (hb : s.decBusy = true) (hp : s.dPhase = .field p)
    (hdata : p = .data → s.dIdx < s.pktLen.toNat) (hcnt : s.dSyncCnt ≤ s.cfg.syncLimit)
    (hidx : s.dIdx ≤ s.cfg.maxLen) : s.DecoderLegal := by
  simpa [State.DecoderLegal, Phase.isField, hb, hp, hcnt, hidx] using hdata

/-- Outside a decode the decoder is in phase `IDLE`, and so nothing of it depends on the packet. -/
theorem State.DecoderLegal.idle {s : State} (hs : s.DecoderLegal) (hb : s.decBusy = false) :
    s.dPhase = .idle ∧ s.dEsc = false := by
  obtain ⟨hbusy, hesc, _⟩ := hs
  have hp : s.dPhase = .idle := by simpa [hb] using hbusy
  exact ⟨hp, by simpa [hp, Phase.isField] using hesc⟩

end Sys2Proof.Machine
end

section
/-! The reset state is legal (R42, R48). -/

namespace Sys2Proof.Machine

theorem resetWith_inv {c : Config} (hc : c.Valid) : (State.resetWith c).Inv :=
  inv_iff.2 ⟨hc, by simp [State.resetWith],
    ⟨Nat.zero_le _, Memory.wf_nil, Memory.within_nil _⟩,
    ⟨by simp [State.resetWith], Nat.le_refl _, fun _ => Nat.zero_le _⟩,
    decoderLegal_idle rfl rfl rfl (Nat.zero_le _) (Nat.zero_le _)⟩

/-- With no encode in progress nothing is asked of the wire image. -/
theorem wireImageCurrent_of_idle {s : State} (h : s.encBusy = false) : s.WireImageCurrent := by
  simp [State.WireImageCurrent, h]

theorem default_valid : Config.default.Valid := by decide

/-- Settles O12: the reset state has empty lists and counters at 0, and the defaults are admissible. -/
theorem resetStateIsLegal : Obligations.ResetStateIsLegal :=
  ⟨resetWith_inv default_valid, wireImageCurrent_of_idle rfl,
    fun _ hc => ⟨resetWith_inv hc, wireImageCurrent_of_idle rfl⟩⟩

/-- `RST` leaves a legal state, whatever it finds. -/
theorem rst_inv {s : State} (hc : s.cfg.Valid) : s.rst.Inv := resetWith_inv hc

end Sys2Proof.Machine
end

section
/-! The legal states are kept (R42): one lemma for each operation, then one for each layer of a step. -/

namespace Sys2Proof.Machine

/-! ## The end of a decode -/

theorem drawRest_packetLegal {s : State} (hc : s.cfg.Valid) (hs : s.PacketLegal) : s.drawRest.PacketLegal := by
  obtain ⟨_, _, _, hcap, _⟩ := hc
  obtain ⟨hlen, hwf, hwithin⟩ := hs
  exact ⟨hlen, Memory.wf_fill _ _ _ _ hwf, Memory.within_fill _ _ _ _ s.cfg.payloadCap hwithin (by omega)⟩

theorem drawPacket_packetLegal {s : State} (hs : s.PacketLegal) : s.drawPacket.PacketLegal := by
  obtain ⟨_, hwf, hwithin⟩ := hs
  refine ⟨?_, Memory.wf_fill _ _ _ _ hwf, Memory.within_fill _ _ _ _ s.cfg.payloadCap hwithin (by omega)⟩
  have hmod := Nat.mod_lt (s.drawn (s.cfg.payloadCap + 2)).toNat (Nat.succ_pos s.cfg.maxLen)
  simp only [State.drawPacket, BitVec.toNat_ofNat]
  exact (Nat.mod_le _ _).trans (Nat.le_of_lt_succ hmod)

theorem terminate_packetLegal {s : State} (code : DecOutcome) (hc : s.cfg.Valid) (hs : s.PacketLegal) :
    (terminate code s).PacketLegal := by
  unfold terminate
  split
  · exact drawRest_packetLegal hc hs
  · exact drawPacket_packetLegal hs

/-- The end of a decode leaves a legal state, and needs of the decoder only that its counters are in range. -/
theorem terminate_inv {s : State} (code : DecOutcome) (hc : s.cfg.Valid) (hpkt : s.PacketLegal)
    (henc : s.EncoderLegal) (hcnt : s.dSyncCnt ≤ s.cfg.syncLimit) (hidx : s.dIdx ≤ s.cfg.maxLen) :
    (terminate code s).Inv :=
  inv_iff.2 ⟨by simpa using hc, by simp, terminate_packetLegal code hc hpkt,
    henc.of_sameEncoder (terminate_sameEncoder code s) (terminate_cfg s code),
    decoderLegal_idle (by simp) (by simp) (by simp) (by simpa using hcnt) (by simpa using hidx)⟩

theorem terminate_inv_of_inv {s : State} (code : DecOutcome) (hs : s.Inv) : (terminate code s).Inv := by
  obtain ⟨hc, _, hpkt, henc, _, _, _, hcnt, _, hidx⟩ := inv_iff.1 hs
  exact terminate_inv code hc hpkt henc hcnt hidx

/-! ## The encoder -/

/-- A wire frame is never empty: it begins with `FEND` (R75). -/
theorem length_encodeFrame_pos (c : Config) (addr : BitVec 7) (cmd n : Byte) (d : List Byte) :
    0 < (encodeFrame c addr cmd n d).1.length := Nat.succ_pos _

/-- The upper bound of R77: with a length byte that is no marker, a frame takes at most `2n + 8` bytes. -/
theorem length_encodeFrame_le (c : Config) (addr : BitVec 7) (cmd : Byte) {n : Byte} (d : List Byte)
    (hfend : n ≠ FEND) (hfesc : n ≠ FESC) : (encodeFrame c addr cmd n d).1.length ≤ 2 * d.length + 8 := by
  have haddr : (if addr ≠ 0 then [addrByte addr] else []).length ≤ 1 := by split <;> simp
  have hlead := (length_stuffAll (if addr ≠ 0 then [addrByte addr] else [])).2
  have hcmd := (length_stuff cmd).2.1
  have hn := (length_stuff n).2.2 hfend hfesc
  have hd := (length_stuffAll d).2
  have hcrc := (length_stuff (frameCrc c addr cmd n d)).2.1
  simp only [encodeFrame_fst, logical, stuffAll_append, stuffAll_cons, stuffAll_nil, List.length_cons,
    List.length_append, List.length_nil]
  omega

/-- The wire image of a legal packet is as long as R33 allows. -/
theorem length_frame_le {s : State} (hs : s.PacketLegal) (hmax : s.cfg.maxLen < 0xC0) :
    s.frame.1.length ≤ 2 * s.cfg.maxLen + 8 := by
  obtain ⟨hlen, _⟩ := hs
  have hsmall : s.pktLen.toNat < 0xC0 := hlen.trans_lt hmax
  have hfend : s.pktLen ≠ FEND := fun h => by simp [h] at hsmall
  have hfesc : s.pktLen ≠ FESC := fun h => by simp [h] at hsmall
  have hbound := length_encodeFrame_le s.cfg s.pktAddr s.pktCmd (s.pktData.payload s.pktLen.toNat) hfend hfesc
  rw [length_payload] at hbound
  exact hbound.trans (by omega)

/-- An answered offer keeps the encoder legal: the last acknowledgement ends the encode (R144, R145). -/
theorem txStep_encoderLegal {s : State} {b : Byte} (answer : TxAnswer) (hs : s.EncoderLegal)
    (hb : s.encBusy = true) : (txStep b answer s).EncoderLegal := by
  obtain ⟨hbelow, hptr, hlen⟩ := hs
  have hlt := hbelow hb
  cases answer with
  | ack =>
    simp only [State.EncoderLegal, txStep, txAck_encBusy, txAck_encPtr, txAck_encWire, txAck_cfg]
    refine ⟨fun hbusy => ?_, by omega, hlen⟩
    split at hbusy
    · cases hbusy
    · omega
  | fail => exact ⟨nofun, hptr, hlen⟩

theorem txStep_inv {s : State} {b : Byte} (answer : TxAnswer) (hs : s.Inv) (hoffer : s.offer = some b) :
    (txStep b answer s).Inv := by
  obtain ⟨hc, hexcl, hpkt, henc, hdec⟩ := inv_iff.1 hs
  have hb := (offer_eq_some.1 hoffer).1
  have hd : s.decBusy = false := by simpa [hb] using hexcl
  have henc' := txStep_encoderLegal (b := b) answer henc hb
  cases answer with
  | ack =>
    refine inv_iff.2 ⟨by simpa [txStep] using hc, by simp [txStep, hd], ?_, henc', ?_⟩
    · simpa [txStep, State.PacketLegal, State.CellsLegal] using hpkt
    · simpa [txStep, State.DecoderLegal] using hdec
  | fail => exact inv_iff.2 ⟨hc, by simp [txStep], hpkt, henc', hdec⟩

/-! ## Commands -/

theorem respond_inv {s : State} (code : RespCode) (data : Byte) (hs : s.Inv) : (s.respond code data).Inv := hs

/-- A command keeps the legal states. One that writes runs only while no operation is in progress, so the phase is
`IDLE`. -/
theorem command_keeps_inv {i : Instr} {s t : State} (hs : s.Inv) (hi : i.isCommand = true)
    (h : exec i s = .next t) : t.Inv := by
  obtain ⟨hc, hexcl, hpkt, henc, hdec⟩ := inv_iff.1 hs
  rcases command_cases hi h with ⟨_, _, _, rfl⟩ | ⟨_, _, _, rfl⟩ | ⟨heb, hdb, u, rfl, hu⟩
  · exact respond_inv _ _ hs
  · exact respond_inv _ _ hs
  · obtain ⟨hphase, hesc⟩ := hdec.idle hdb
    have ⟨hlen, hwf, hwithin⟩ := hpkt
    have ⟨_, _, _, hcnt, _, hidx⟩ := hdec
    have ⟨_, hlimit, _⟩ := hc
    refine respond_inv _ _ (inv_iff.2 ?_)
    rcases hu with ⟨_, _, rfl⟩ | ⟨_, _, rfl⟩ | ⟨n, _, hn, rfl⟩ | ⟨k, d, _, hk, rfl⟩ | ⟨_, _, rfl⟩ | ⟨_, rfl⟩
    · exact inv_iff.1 hs
    · exact inv_iff.1 hs
    · exact ⟨hc, hexcl, ⟨hn, hwf, hwithin⟩, henc, decoderLegal_idle hdb hphase hesc hcnt hidx⟩
    · exact ⟨hc, hexcl, ⟨hlen, Memory.wf_write _ _ _ hwf, Memory.within_write _ _ _ _ hwithin hk⟩, henc, hdec⟩
    · exact ⟨hc, by simp [hdb], hpkt,
        ⟨fun _ => length_encodeFrame_pos _ _ _ _ _, Nat.zero_le _, length_frame_le hpkt⟩, hdec⟩
    · exact ⟨hc, by simp [heb], hpkt, henc, decoderLegal_sync rfl rfl rfl hlimit (Nat.zero_le _)⟩

theorem commandStep_keeps_inv {w : CmdWord} {s t : State} (hs : s.Inv) (h : commandStep w s = .next t) :
    t.Inv := by
  rcases isCommand_commandStep h with ⟨_, _, rfl⟩ | ⟨_, _, hi, h⟩
  · exact respond_inv _ _ hs
  · exact command_keeps_inv hs hi h

/-! ## The decoder -/

/-- A logical byte keeps the legal states (R179 to R184). -/
theorem field_keeps_inv {v : Byte} {s t : State} (hs : s.Inv) (h : field v s = .next t) : t.Inv := by
  obtain ⟨hc, hexcl, hpkt, henc, hdec⟩ := inv_iff.1 hs
  obtain ⟨hb, p, hp, hcases⟩ := field_cases h
  have ⟨hlen, hwf, hwithin⟩ := hpkt
  have ⟨_, _, hdata, hcnt, _, hidx⟩ := hdec
  rcases hcases with
    ⟨code, _, rfl⟩ | ⟨_, _, rfl⟩ | ⟨_, rfl⟩ | ⟨_, rfl⟩ | ⟨_, hv, rfl⟩ | ⟨rfl, hcell, rfl⟩
  · exact terminate_inv_of_inv code (s := s.foldRx v) hs
  · exact inv_iff.2 ⟨hc, hexcl, hpkt, henc, decoderLegal_field hb rfl nofun hcnt hidx⟩
  · exact inv_iff.2 ⟨hc, hexcl, hpkt, henc, decoderLegal_field hb rfl nofun hcnt hidx⟩
  · exact inv_iff.2 ⟨hc, hexcl, hpkt, henc, decoderLegal_field hb rfl nofun hcnt hidx⟩
  · refine inv_iff.2 ⟨hc, hexcl, ⟨hv, hwf, hwithin⟩, henc, ?_⟩
    split
    · exact decoderLegal_field hb rfl nofun hcnt (Nat.zero_le _)
    · rename_i hne
      have hpos : 0 < v.toNat := Nat.pos_of_ne_zero fun h => hne (BitVec.eq_of_toNat_eq h)
      exact decoderLegal_field hb rfl (fun _ => hpos) hcnt (Nat.zero_le _)
  · refine inv_iff.2 ⟨hc, hexcl,
      ⟨hlen, Memory.wf_write _ _ _ hwf, Memory.within_write _ _ _ _ hwithin hcell⟩, henc, ?_⟩
    have hbelow : s.dIdx < s.pktLen.toNat := hdata hp
    split
    · exact decoderLegal_field hb rfl nofun hcnt (hbelow.trans_le hlen)
    · rename_i hne
      exact decoderLegal_field hb rfl (fun _ => Nat.lt_of_le_of_ne hbelow hne) hcnt (hbelow.trans_le hlen)

/-- A wire byte keeps the legal states (R175 to R178). -/
theorem wire_keeps_inv {i : Instr} {s t : State} (hs : s.Inv) (hi : i.isCommand = false)
    (h : exec i s = .next t) : t.Inv := by
  obtain ⟨hc, hexcl, hpkt, henc, hdec⟩ := inv_iff.1 hs
  obtain ⟨hbusy, hesc, hdata, hcnt, hscan, hidx⟩ := hdec
  have hplain : State.Inv { s with dEsc := false } :=
    inv_iff.2 ⟨hc, hexcl, hpkt, henc, hbusy, nofun, hdata, hcnt, hscan, hidx⟩
  rcases wire_cases hi h with ⟨hb, hp, hsync⟩ | ⟨hb, ⟨p, hp⟩, hraw⟩ | ⟨v, u, hu, hfield⟩
  · have hnext : s.dSyncCnt + 1 ≤ s.cfg.syncLimit := hscan hp
    rcases hsync with rfl | ⟨hne, rfl⟩ | rfl
    · exact inv_iff.2 ⟨hc, hexcl, hpkt, henc, decoderLegal_field hb rfl nofun hnext hidx⟩
    · exact inv_iff.2 ⟨hc, hexcl, hpkt, henc, hbusy, hesc, hdata, hnext, fun _ => hnext.lt_of_ne hne, hidx⟩
    · exact terminate_inv (s := { s with dSyncCnt := s.dSyncCnt + 1 }) _ hc hpkt henc hnext hidx
  · rcases hraw with ⟨_, rfl⟩ | ⟨_, rfl⟩ | rfl
    · exact inv_iff.2 ⟨hc, hexcl, hpkt, henc,
        decoderLegal_field hb hp (fun h => hdata (h ▸ hp)) hcnt hidx⟩
    · exact inv_iff.2 ⟨hc, hexcl, hpkt, henc, decoderLegal_field hb rfl nofun hcnt (Nat.zero_le _)⟩
    · exact terminate_inv_of_inv _ hplain
  · rcases hu with rfl | rfl
    · exact field_keeps_inv hs hfield
    · exact field_keeps_inv hplain hfield

theorem rxStep_keeps_inv {c : WireContext} {e : RxEvent} {s t : State} (hs : s.Inv)
    (h : rxStep c e s = .next t) : t.Inv := by
  rcases rxStep_cases h with ⟨r, _, h⟩ | ⟨_, rfl⟩ | ⟨_, rfl⟩
  · exact wire_keeps_inv hs (isCommand_decodeWire _ c r) h
  · exact terminate_inv_of_inv _ hs
  · exact terminate_inv_of_inv _ hs

/-! ## A step -/

theorem turn_keeps_inv {a : Agent} {s t : State} (hs : s.Inv) (h : turn a s = .next t) : t.Inv := by
  rcases turn_cases h with
    rfl | ⟨_, _, ws, _, h⟩ | ⟨_, b, x, xs, hoffer, _, rfl⟩ | ⟨_, _, _, es, _, _, h⟩ | ⟨_, rfl⟩
  · exact hs
  · exact commandStep_keeps_inv (s := { s with ports.commands := ws }) hs h
  · exact txStep_inv (s := { s with ports.answers := xs }) x hs hoffer
  · exact rxStep_keeps_inv (s := { s with ports.events := es }) hs h
  · exact rst_inv (inv_iff.1 hs).1

theorem step_keeps_inv {s t : State} (hs : s.Inv) (h : step s = .next t) : t.Inv := by
  rcases step_cases h with ⟨_, rfl⟩ | ⟨a, as, _, h⟩
  · exact hs
  · exact turn_keeps_inv (s := { s with ports.turns := as }) hs h

end Sys2Proof.Machine
end

section
/-! No step from a legal state is a fault or a refusal (R260): a command or a byte that is taken has a next state. -/

namespace Sys2Proof.Machine

theorem unlessBusy_total {s : State} (busy : Bool) {k : Result} (h : ∃ t, k = .next t) :
    ∃ t, s.unlessBusy busy k = .next t := by
  cases busy with
  | true => exact ⟨_, unlessBusy_true s k⟩
  | false => exact h

theorem unlessOut_total {s : State} (out : Bool) {k : Result} (h : ∃ t, k = .next t) :
    ∃ t, s.unlessOut out k = .next t := by
  cases out with
  | true => exact ⟨_, unlessOut_true s k⟩
  | false => exact h

/-- Every command has a next state, `ENC_START` because the packet's cells exist (R42.2, R50). -/
theorem command_next {i : Instr} {s : State} (hi : i.isCommand = true) (hlen : s.pktLen.toNat ≤ s.cfg.payloadCap) :
    ∃ t, exec i s = .next t := by
  cases i with
  | nop | crcInit _ | crcUpdate _ | crcRead | statusRead => exact ⟨_, rfl⟩
  | pktSetCmd _ | decStart | pktGetAddr | pktGetCmd | pktGetLen | encOutcomeRead | decOutcomeRead
  | txCrcRead | rxCrcRead => exact unlessBusy_total _ ⟨_, rfl⟩
  | pktSetAddr _ | pktSetLen _ | pktWrite _ _ | pktRead _ =>
    exact unlessBusy_total _ (unlessOut_total _ ⟨_, rfl⟩)
  | encStart => exact unlessBusy_total _ ⟨_, if_neg (Nat.not_lt.2 hlen)⟩
  | _ => cases hi

theorem commandStep_next {s : State} (w : CmdWord) (hlen : s.pktLen.toNat ≤ s.cfg.payloadCap) :
    ∃ t, commandStep w s = .next t := by
  cases hd : decodeCmd w with
  | ok i => simpa only [commandStep, hd] using command_next (isCommand_of_decodeCmd hd) hlen
  | error e => exact ⟨_, commandStep_of_error hd s⟩

/-- A byte that runs the class its context gives it has a next state if what the class does has one. -/
theorem onByte_total {s : State} {c : WireContext} {b : Byte} {i : Instr} {k : Result}
    (hc : s.wireContext = some c) (hi : decodeWire s.cfg.maxLen c b = i) (h : ∃ t, k = .next t) :
    ∃ t, s.onByte c b i k = .next t := by
  rwa [onByte_eq (inContext_of_wireContext hc) hi]

/-- In the context the state gives it every byte has a next state (R87, R171). -/
theorem wire_next {s : State} {c : WireContext} (r : Byte) (hc : s.wireContext = some c)
    (hcell : s.dPhase = .field .data → s.dIdx < s.cfg.payloadCap) :
    ∃ t, exec (decodeWire s.cfg.maxLen c r) s = .next t := by
  obtain ⟨hb, ⟨rfl, _⟩ | ⟨p, hp, ⟨rfl, _⟩ | ⟨rfl, _⟩⟩⟩ := wireContext_cases hc
  · by_cases hr : r = FEND
    · subst hr
      exact onByte_total hc rfl ⟨_, rfl⟩
    · have hd : decodeWire s.cfg.maxLen .sync r = .syncOther r := if_neg hr
      exact hd ▸ onByte_total hc hd ⟨_, rfl⟩
  · have hfield : ∀ v, ∃ t, field v s = .next t := fun v => field_next hb hp hcell
    by_cases hesc : r = FESC
    · subst hesc
      exact onByte_total hc rfl ⟨_, rfl⟩
    by_cases hfend : r = FEND
    · subst hfend
      refine onByte_total hc rfl ?_
      split
      · exact hfield FEND
      · exact ⟨_, rfl⟩
    · have hd : decodeWire s.cfg.maxLen .field r = .fieldLiteral r := (if_neg hesc).trans (if_neg hfend)
      exact hd ▸ onByte_total hc hd (hfield r)
  · have hfield : ∀ v, ∃ t, field v { s with dEsc := false } = .next t := fun v => field_next hb hp hcell
    by_cases hfend : r = TFEND
    · subst hfend
      exact onByte_total hc rfl (hfield FEND)
    by_cases hesc : r = TFESC
    · subst hesc
      exact onByte_total hc rfl (hfield FESC)
    · have hd : decodeWire s.cfg.maxLen .escaped r = .escBad r := (if_neg hfend).trans (if_neg hesc)
      exact hd ▸ onByte_total hc hd ⟨_, rfl⟩

theorem rxStep_next {s : State} {c : WireContext} (e : RxEvent) (hc : s.wireContext = some c)
    (hcell : s.dPhase = .field .data → s.dIdx < s.cfg.payloadCap) : ∃ t, rxStep c e s = .next t := by
  cases e with
  | byte r => exact wire_next r hc hcell
  | timeout => exact ⟨_, rfl⟩
  | error => exact ⟨_, rfl⟩

/-- A turn of a legal state has a next state: the packet's cells exist, and in `DATA` the one at `D_IDX` does
(R42.2, R42.5, R50). -/
theorem turn_next {s : State} (a : Agent) (hs : s.Inv) : ∃ t, turn a s = .next t := by
  obtain ⟨⟨_, _, _, hcap, _⟩, _, ⟨hlen, _⟩, _, _, _, hdata, _⟩ := inv_iff.1 hs
  cases a with
  | host =>
    simp only [turn, hostTurn]
    split
    · exact ⟨_, rfl⟩
    · exact commandStep_next _ (hlen.trans hcap.le)
  | encoder =>
    simp only [turn, encoderTurn]
    split <;> exact ⟨_, rfl⟩
  | decoder =>
    simp only [turn, decoderTurn]
    split
    · rename_i hctx _
      exact rxStep_next _ hctx fun hp => (hdata hp).trans_le (hlen.trans hcap.le)
    · exact ⟨_, rfl⟩
  | reset => exact ⟨_, rfl⟩

theorem step_next {s : State} (hs : s.Inv) : ∃ t, step s = .next t := by
  simp only [step, nextTurn]
  split
  · exact ⟨_, rfl⟩
  · exact turn_next _ hs

/-- Settles O11: a legal state has a step, and every step keeps each part of the legal states. -/
theorem stepKeepsLegalStates : Obligations.StepKeepsLegalStates := by
  intro s hs
  obtain ⟨t, ht⟩ := step_next hs
  exact ⟨t, ht, step_keeps_inv hs ht⟩

end Sys2Proof.Machine
end

section
/-! The latched image stays current (R33, R62): during an encode no command writes a register but `CRC_ACC`, a TX
answer moves `ENC_PTR` or ends the encode, and no decode is in progress to write the packet (R42.1). -/

namespace Sys2Proof.Machine

/-- A command that ends with an encode in progress was `ENC_START` or wrote no register of the packet or the
encoder. -/
theorem command_keeps_wireImageCurrent {i : Instr} {s t : State} (hs : s.WireImageCurrent)
    (hi : i.isCommand = true) (h : exec i s = .next t) : t.WireImageCurrent := by
  rcases command_cases hi h with ⟨_, _, _, rfl⟩ | ⟨_, _, _, rfl⟩ | ⟨heb, _, u, rfl, hu⟩
  · exact hs
  · exact hs
  · rcases hu with ⟨_, _, rfl⟩ | ⟨_, _, rfl⟩ | ⟨_, _, _, rfl⟩ | ⟨_, _, _, _, rfl⟩ | ⟨_, _, rfl⟩ | ⟨_, rfl⟩
    · exact wireImageCurrent_of_idle heb
    · exact wireImageCurrent_of_idle heb
    · exact wireImageCurrent_of_idle heb
    · exact wireImageCurrent_of_idle heb
    · exact fun _ => ⟨rfl, rfl⟩
    · exact wireImageCurrent_of_idle heb

theorem commandStep_keeps_wireImageCurrent {w : CmdWord} {s t : State} (hs : s.WireImageCurrent)
    (h : commandStep w s = .next t) : t.WireImageCurrent := by
  rcases isCommand_commandStep h with ⟨_, _, rfl⟩ | ⟨_, _, hi, h⟩
  · exact hs
  · exact command_keeps_wireImageCurrent hs hi h

@[simp] theorem txAck_frame (b : Byte) (s : State) : (txAck b s).frame = s.frame := by
  simp [State.frame]

/-- An answered offer ends the encode, or moves `ENC_PTR` on only (R144, R145). -/
theorem txStep_keeps_wireImageCurrent {s : State} {b : Byte} (answer : TxAnswer) (hs : s.WireImageCurrent)
    (hb : s.encBusy = true) : (txStep b answer s).WireImageCurrent := by
  cases answer with
  | ack => simpa [txStep, State.WireImageCurrent] using fun _ _ => hs hb
  | fail => exact wireImageCurrent_of_idle (txFail_encBusy s)

/-- During a decode there is no encode, and no RX event starts one (R42.1). -/
theorem rxStep_keeps_wireImageCurrent {c : WireContext} {e : RxEvent} {s t : State} (hs : s.Inv)
    (hb : s.decBusy = true) (h : rxStep c e s = .next t) : t.WireImageCurrent := by
  obtain ⟨_, _, hbusy, _⟩ := rxStep_keeps_crcAcc_and_encoder h
  exact wireImageCurrent_of_idle (hbusy.trans (encBusy_eq_false_of_inv hs hb))

theorem turn_keeps_wireImageCurrent {a : Agent} {s t : State} (hs : s.Inv) (hw : s.WireImageCurrent)
    (h : turn a s = .next t) : t.WireImageCurrent := by
  rcases turn_cases h with
    rfl | ⟨_, _, ws, _, h⟩ | ⟨_, b, x, xs, hoffer, _, rfl⟩ | ⟨_, _, _, es, hctx, _, h⟩ | ⟨_, rfl⟩
  · exact hw
  · exact commandStep_keeps_wireImageCurrent (s := { s with ports.commands := ws }) hw h
  · exact txStep_keeps_wireImageCurrent (s := { s with ports.answers := xs }) x hw (offer_eq_some.1 hoffer).1
  · exact rxStep_keeps_wireImageCurrent (s := { s with ports.events := es }) hs (wireContext_cases hctx).1 h
  · exact wireImageCurrent_of_idle (State.rst_encBusy s)

/-- Settles O13: a step is nothing or a turn, and every turn of a legal state keeps the image current. -/
theorem stepKeepsWireImageCurrent : Obligations.StepKeepsWireImageCurrent := by
  intro s t hs hw h
  rcases step_cases h with ⟨_, rfl⟩ | ⟨a, as, _, h⟩
  · exact hw
  · exact turn_keeps_wireImageCurrent (s := { s with ports.turns := as }) hs hw h

end Sys2Proof.Machine
end

section
/-! Who writes `CRC_ACC` (R21): of the commands `CRC_INIT` and `CRC_UPDATE`, and of the other turns the reset. -/

namespace Sys2Proof.Machine

theorem command_crcAcc_cases {i : Instr} {s t : State} (hi : i.isCommand = true) (h : exec i s = .next t) :
    t.crcAcc = s.crcAcc ∨ ∃ x, i = .crcInit x ∨ i = .crcUpdate x := by
  rcases command_cases hi h with ⟨_, _, _, rfl⟩ | ⟨_, x, hx, _⟩ | ⟨_, _, u, rfl, hu⟩
  · exact .inl rfl
  · exact .inr ⟨x, hx⟩
  · left
    rcases hu with ⟨_, _, rfl⟩ | ⟨_, _, rfl⟩ | ⟨_, _, _, rfl⟩ | ⟨_, _, _, _, rfl⟩ | ⟨_, _, rfl⟩ | ⟨_, rfl⟩ <;> rfl

theorem commandStep_crcAcc_cases {w : CmdWord} {s t : State} (h : commandStep w s = .next t) :
    t.crcAcc = s.crcAcc ∨ ∃ x, decodeCmd w = .ok (.crcInit x) ∨ decodeCmd w = .ok (.crcUpdate x) := by
  rcases isCommand_commandStep h with ⟨_, _, rfl⟩ | ⟨i, hd, hi, h⟩
  · exact .inl rfl
  · rcases command_crcAcc_cases hi h with hacc | ⟨x, rfl | rfl⟩
    · exact .inl hacc
    · exact .inr ⟨x, .inl hd⟩
    · exact .inr ⟨x, .inr hd⟩

/-- Settles O21: of the turns a step can take, only the host's and the reset write `CRC_ACC`. -/
theorem onlyCrcCommandsWriteAccumulator : Obligations.OnlyCrcCommandsWriteAccumulator := by
  intro s t h hne
  rcases step_cases h with ⟨_, rfl⟩ | ⟨a, as, hturns, h⟩
  · exact absurd rfl hne
  rcases turn_cases h with
    rfl | ⟨rfl, w, ws, hcommands, h⟩ | ⟨_, b, x, _, _, _, rfl⟩ | ⟨_, _, _, _, _, _, h⟩ | ⟨rfl, _⟩
  · exact absurd rfl hne
  · obtain ⟨x, hx⟩ := (commandStep_crcAcc_cases h).resolve_left hne
    exact .inr ⟨by rw [hturns]; rfl, w, x, by rw [hcommands]; rfl, hx⟩
  · exact absurd (txStep_crcAcc b x _) hne
  · exact absurd (rxStep_keeps_crcAcc_and_encoder h).1 hne
  · exact .inl (by rw [hturns]; rfl)

end Sys2Proof.Machine
end

section
/-! `CRC_ACC` influences nothing else (R303): every operation commutes with setting it, and so does every
instruction that is not one of the CRC engine's three. -/

namespace Sys2Proof.Machine

/-- `s` with another accumulator. -/
def State.withAcc (v : Byte) (s : State) : State := { s with crcAcc := v }

/-- An outcome with another accumulator in its next state, if it has one. -/
def withAccResult (v : Byte) : Result → Result
  | .next t => .next (t.withAcc v)
  | .fault r => .fault r
  | .refused r => .refused r

theorem unlessBusy_withAcc {v : Byte} {s : State} {busy : Bool} {k k' : Result} (h : withAccResult v k = k') :
    withAccResult v (s.unlessBusy busy k) = (s.withAcc v).unlessBusy busy k' := by
  subst h
  cases busy <;> rfl

theorem unlessOut_withAcc {v : Byte} {s : State} {out : Bool} {k k' : Result} (h : withAccResult v k = k') :
    withAccResult v (s.unlessOut out k) = (s.withAcc v).unlessOut out k' := by
  subst h
  cases out <;> rfl

theorem inContext_withAcc (v : Byte) (s : State) (c : WireContext) :
    (s.withAcc v).inContext c = s.inContext c := by
  cases c <;> rfl

theorem onByte_withAcc {v : Byte} {s : State} {c : WireContext} {b : Byte} {i : Instr} {k k' : Result}
    (h : withAccResult v k = k') : withAccResult v (s.onByte c b i k) = (s.withAcc v).onByte c b i k' := by
  subst h
  have hcfg : (s.withAcc v).cfg = s.cfg := rfl
  simp only [State.onByte, inContext_withAcc, hcfg]
  split <;> rfl

theorem terminate_withAcc (v : Byte) (code : DecOutcome) (s : State) :
    (terminate code s).withAcc v = terminate code (s.withAcc v) := by
  unfold terminate
  split <;> rfl

/-! ## Logical bytes -/

theorem execLogAddrByte_withAcc (a v : Byte) (s : State) :
    withAccResult a (execLogAddrByte v s) = execLogAddrByte v (s.withAcc a) := onByte_withAcc rfl

theorem execLogBcastCmd_withAcc (a v : Byte) (s : State) :
    withAccResult a (execLogBcastCmd v s) = execLogBcastCmd v (s.withAcc a) := onByte_withAcc rfl

theorem execLogCmd_withAcc (a v : Byte) (s : State) :
    withAccResult a (execLogCmd v s) = execLogCmd v (s.withAcc a) := onByte_withAcc rfl

theorem execLogCmdAddrErr_withAcc (a v : Byte) (s : State) :
    withAccResult a (execLogCmdAddrErr v s) = execLogCmdAddrErr v (s.withAcc a) :=
  onByte_withAcc (congrArg _ (terminate_withAcc a _ (s.foldRx v)))

theorem execLogLen_withAcc (a v : Byte) (s : State) :
    withAccResult a (execLogLen v s) = execLogLen v (s.withAcc a) := onByte_withAcc rfl

theorem execLogLenErr_withAcc (a v : Byte) (s : State) :
    withAccResult a (execLogLenErr v s) = execLogLenErr v (s.withAcc a) :=
  onByte_withAcc (congrArg _ (terminate_withAcc a _ (s.foldRx v)))

theorem execLogData_withAcc (a v : Byte) (s : State) :
    withAccResult a (execLogData v s) = execLogData v (s.withAcc a) :=
  onByte_withAcc (apply_ite (withAccResult a) (s.dIdx < s.cfg.payloadCap) _ _)

theorem execLogCrc_withAcc (a v : Byte) (s : State) :
    withAccResult a (execLogCrc v s) = execLogCrc v (s.withAcc a) :=
  onByte_withAcc (congrArg _ (terminate_withAcc a _ (s.foldRx v)))

theorem field_withAcc (a v : Byte) (s : State) : withAccResult a (field v s) = field v (s.withAcc a) := by
  have hphase : (s.withAcc a).dPhase = s.dPhase := rfl
  have hcfg : (s.withAcc a).cfg = s.cfg := rfl
  unfold field
  rw [hphase, hcfg]
  split
  · split
    · exact execLogAddrByte_withAcc a v s
    · exact execLogBcastCmd_withAcc a v s
  · split
    · exact execLogCmdAddrErr_withAcc a v s
    · exact execLogCmd_withAcc a v s
  · split
    · exact execLogLenErr_withAcc a v s
    · exact execLogLen_withAcc a v s
  · exact execLogData_withAcc a v s
  · exact execLogCrc_withAcc a v s
  · rfl
  · rfl

/-! ## Raw bytes that do more than set registers -/

theorem execSyncOther_withAcc (a r : Byte) (s : State) :
    withAccResult a (execSyncOther r s) = execSyncOther r (s.withAcc a) := by
  refine onByte_withAcc (congrArg Host.Outcome.next ?_)
  exact (apply_ite (State.withAcc a) _ _ _).trans (if_congr Iff.rfl (terminate_withAcc a _ _) rfl)

theorem execFieldRawFend_withAcc (a : Byte) (s : State) :
    withAccResult a (execFieldRawFend s) = execFieldRawFend (s.withAcc a) := by
  have hcfg : (s.withAcc a).cfg = s.cfg := rfl
  unfold execFieldRawFend
  refine onByte_withAcc ?_
  rw [hcfg]
  split
  · exact field_withAcc a FEND s
  · rfl

/-! ## Every instruction -/

/-- An instruction other than the three of the CRC engine does the same with another accumulator. -/
theorem exec_withAcc {i : Instr} (a : Byte) (s : State) (hread : i ≠ .crcRead) (hinit : ∀ x, i ≠ .crcInit x)
    (hupdate : ∀ x, i ≠ .crcUpdate x) : withAccResult a (exec i s) = exec i (s.withAcc a) := by
  cases i with
  | crcRead => exact absurd rfl hread
  | crcInit x => exact absurd rfl (hinit x)
  | crcUpdate x => exact absurd rfl (hupdate x)
  | nop | statusRead => rfl
  | pktSetCmd _ | decStart | pktGetAddr | pktGetCmd | pktGetLen | encOutcomeRead | decOutcomeRead
  | txCrcRead | rxCrcRead => exact unlessBusy_withAcc rfl
  | pktSetAddr _ | pktSetLen _ | pktWrite _ _ | pktRead _ => exact unlessBusy_withAcc (unlessOut_withAcc rfl)
  | encStart => exact unlessBusy_withAcc (apply_ite (withAccResult a) (s.cfg.payloadCap < s.pktLen.toNat) _ _)
  | syncFend | fieldFesc => exact onByte_withAcc rfl
  | syncOther r => exact execSyncOther_withAcc a r s
  | fieldRawFend => exact execFieldRawFend_withAcc a s
  | fieldLiteral r => exact onByte_withAcc (field_withAcc a r s)
  | escTfend => exact onByte_withAcc (field_withAcc a FEND { s with dEsc := false })
  | escTfesc => exact onByte_withAcc (field_withAcc a FESC { s with dEsc := false })
  | escBad r => exact onByte_withAcc (congrArg _ (terminate_withAcc a _ { s with dEsc := false }))
  | logAddrByte v => exact execLogAddrByte_withAcc a v s
  | logBcastCmd v => exact execLogBcastCmd_withAcc a v s
  | logCmd v => exact execLogCmd_withAcc a v s
  | logCmdAddrErr v => exact execLogCmdAddrErr_withAcc a v s
  | logLen v => exact execLogLen_withAcc a v s
  | logLenErr v => exact execLogLenErr_withAcc a v s
  | logData v => exact execLogData_withAcc a v s
  | logCrc v => exact execLogCrc_withAcc a v s

/-- Settles O22: setting `CRC_ACC` commutes with the instruction, so the two next states differ in it alone. -/
theorem accumulatorInfluencesNothingElse : Obligations.AccumulatorInfluencesNothingElse := by
  intro i s t v hread hinit hupdate h
  exact (exec_withAcc v s hread hinit hupdate).symm.trans (congrArg (withAccResult v) h)

end Sys2Proof.Machine
end

section
/-! Single turns (R43 to R46, R272), and the state after reset (R48). -/

namespace Sys2Proof.Machine

theorem step_of_turn {s : State} {a : Agent} {as : List Agent} (h : s.ports.turns = a :: as) :
    step s = turn a { s with ports.turns := as } := by
  simp only [step, nextTurn, h]

theorem hostTurn_of_command {s : State} {w : CmdWord} {ws : List CmdWord} (h : s.ports.commands = w :: ws) :
    hostTurn s = commandStep w { s with ports.commands := ws } := by
  simp only [hostTurn, h]

theorem commandStep_of_ok {w : CmdWord} {i : Instr} (h : decodeCmd w = .ok i) (s : State) :
    commandStep w s = exec i s := by
  simp only [commandStep, h]

/-- Settles O6: the step is the host's turn, the turn is its word's step, and the step is what the word decodes
to. -/
theorem stepRunsDecodedCommand : Obligations.StepRunsDecodedCommand := by
  intro s w i as ws hturns hcommands hd
  calc step s
      = hostTurn { s with ports.turns := as } := step_of_turn hturns
    _ = commandStep w { s with ports.turns := as, ports.commands := ws } := hostTurn_of_command hcommands
    _ = exec i { s with ports.turns := as, ports.commands := ws } := commandStep_of_ok hd _

theorem encoderTurn_of_offer {s : State} {b : Byte} {a : TxAnswer} {ans : List TxAnswer}
    (hoffer : s.offer = some b) (h : s.ports.answers = a :: ans) :
    encoderTurn s = .next (txStep b a { s with ports.answers := ans }) := by
  simp only [encoderTurn, hoffer, h]

theorem encoderTurn_of_idle {s : State} (hb : s.encBusy = false) : encoderTurn s = .next s := by
  simp [encoderTurn, State.offer, hb]

theorem decoderTurn_of_idle {s : State} (hb : s.decBusy = false) : decoderTurn s = .next s := by
  simp only [decoderTurn, wireContext_none hb]

/-- Settles O8: with `ENC_BUSY` there is an offer to answer; without the busy flag there is neither offer nor
context, and the turn passes. -/
theorem portTurnsFollowBusyFlags : Obligations.PortTurnsFollowBusyFlags := by
  refine ⟨fun s b a as ans hturns hanswers hb hbyte => ?_, fun s as hturns hb => ?_, fun s as hturns hb => ?_⟩
  · have hoffer : State.offer { s with ports.turns := as } = some b := offer_eq_some.2 ⟨hb, hbyte⟩
    exact (step_of_turn hturns).trans (encoderTurn_of_offer hoffer hanswers)
  · exact (step_of_turn hturns).trans (encoderTurn_of_idle hb)
  · exact (step_of_turn hturns).trans (decoderTurn_of_idle hb)

/-- Settles O9: `State.reset` lists the values of R48; a cell that is not listed reads 0x00. -/
theorem resetStateValues : Obligations.ResetStateValues :=
  ⟨rfl, rfl, rfl, rfl, rfl, Memory.read_nil, rfl, rfl, rfl, rfl, rfl, rfl, rfl, rfl, rfl, rfl, rfl, rfl⟩

/-- Settles O10: the step is the reset's turn, which keeps the ports less that turn. -/
theorem rstStepRestoresReset : Obligations.RstStepRestoresReset :=
  fun _ _ hturns => step_of_turn hturns

end Sys2Proof.Machine
end

section
/-! The rows of the opcode map and of the byte table, read in both directions (R79, R81, R82, R87). -/

namespace Sys2Proof.Machine

/-! ## From an instruction to its words and back -/

/-- A command is read back from its command word: the word's opcode finds the row that made it. -/
theorem decode_encode_of_isCommand {i : Instr} (maxLen : Nat) (hi : i.isCommand = true) :
    decode maxLen (encode i) = .ok i := by
  cases i with
  | nop | crcInit _ | crcUpdate _ | crcRead | pktSetAddr _ | pktSetCmd _ | pktSetLen _ | pktWrite _ _
  | pktGetAddr | pktGetCmd | pktGetLen | pktRead _ | encStart | decStart | statusRead | encOutcomeRead
  | decOutcomeRead | txCrcRead | rxCrcRead => exact (decodeCmd_cmdWord _ _ _).trans rfl
  | _ => cases hi

/-- A class of wire byte is read back from its byte in its context; for a byte that shares its context with another
class, well-formedness is the test that tells the two apart. -/
theorem decode_encode_of_wire {i : Instr} {maxLen : Nat} (hi : i.isCommand = false)
    (hwf : i.wellFormed maxLen = true) : decode maxLen (encode i) = .ok i := by
  cases i with
  | syncFend | fieldFesc | fieldRawFend | escTfend | escTfesc | logData _ | logCrc _ => rfl
  | syncOther _ | fieldLiteral _ | escBad _ | logAddrByte _ | logBcastCmd _ | logCmd _ | logCmdAddrErr _
  | logLen _ | logLenErr _ => simp_all [Instr.wellFormed, encode, decode, decodeWire]
  | _ => cases hi

/-- Settles O1: commands and wire bytes, each by its table. -/
theorem decodeEncodeRoundTrip : Obligations.DecodeEncodeRoundTrip := by
  intro maxLen i hwf
  cases hi : i.isCommand with
  | true => exact decode_encode_of_isCommand maxLen hi
  | false => exact decode_encode_of_wire hi hwf

/-! ## The four kinds of row in the opcode map -/

theorem decodeFields_of_mem_noOperand {op : Byte} (h : op ∈ noOperandOpcodes) :
    ∃ i, (∀ a b, decodeFields op a b = noOperand i op a b) ∧ encode i = .command (cmdWord op 0 0) := by
  simp only [noOperandOpcodes, List.mem_cons, List.not_mem_nil, or_false] at h
  rcases h with rfl | rfl | rfl | rfl | rfl | rfl | rfl | rfl | rfl | rfl | rfl | rfl <;>
    exact ⟨_, fun _ _ => rfl, rfl⟩

theorem decodeFields_of_mem_oneOperand {op : Byte} (h : op ∈ oneOperandOpcodes) :
    ∃ f, (∀ a b, decodeFields op a b = oneOperand f op a b) ∧ ∀ a, encode (f a) = .command (cmdWord op a 0) := by
  simp only [oneOperandOpcodes, List.mem_cons, List.not_mem_nil, or_false] at h
  rcases h with rfl | rfl | rfl | rfl | rfl | rfl <;> exact ⟨_, fun _ _ => rfl, fun _ => rfl⟩

theorem decodeFields_of_mem_twoOperand {op : Byte} (h : op ∈ twoOperandOpcodes) (a b : Byte) :
    ∃ i, decodeFields op a b = .ok i ∧ encode i = .command (cmdWord op a b) := by
  obtain rfl : op = 0x13 := List.mem_singleton.1 h
  exact ⟨_, rfl, rfl⟩

theorem decodeFields_of_undefined {op : Byte}
    (h : op ∉ noOperandOpcodes ++ oneOperandOpcodes ++ twoOperandOpcodes) (a b : Byte) :
    decodeFields op a b = .error (.undefinedOpcode op) := by
  unfold decodeFields
  split
  case h_20 => rfl
  all_goals
    rename_i hop
    exact absurd (by simp [← BitVec.toNat_inj, noOperandOpcodes, oneOperandOpcodes, twoOperandOpcodes, hop]) h

theorem noOperand_eq_ok {i j : Instr} {op a b : Byte} :
    noOperand i op a b = .ok j ↔ (a = 0 ∧ b = 0) ∧ i = j := by
  unfold noOperand
  split <;> simp_all

theorem oneOperand_eq_ok {f : Byte → Instr} {j : Instr} {op a b : Byte} :
    oneOperand f op a b = .ok j ↔ b = 0 ∧ f a = j := by
  unfold oneOperand
  split <;> simp_all

/-- The row of every opcode: three kinds by the operands their words carry, and no row (R81). -/
theorem opcode_cases (op : Byte) :
    op ∈ noOperandOpcodes ∨ op ∈ oneOperandOpcodes ∨ op ∈ twoOperandOpcodes ∨
      op ∉ noOperandOpcodes ++ oneOperandOpcodes ++ twoOperandOpcodes := by
  simp only [List.mem_append]
  tauto

/-! ## From words to an instruction and back -/

/-- The fields of a command's word are the ones its row writes. -/
theorem encode_of_decodeFields {op a b : Byte} {i : Instr} (h : decodeFields op a b = .ok i) :
    encode i = .command (cmdWord op a b) := by
  rcases opcode_cases op with hop | hop | hop | hop
  · obtain ⟨j, hrow, hj⟩ := decodeFields_of_mem_noOperand hop
    obtain ⟨⟨rfl, rfl⟩, rfl⟩ := noOperand_eq_ok.1 ((hrow a b).symm.trans h)
    exact hj
  · obtain ⟨f, hrow, hf⟩ := decodeFields_of_mem_oneOperand hop
    obtain ⟨rfl, rfl⟩ := oneOperand_eq_ok.1 ((hrow a b).symm.trans h)
    exact hf a
  · obtain ⟨j, hrow, hj⟩ := decodeFields_of_mem_twoOperand hop a b
    obtain rfl : j = i := Except.ok.inj (hrow.symm.trans h)
    exact hj
  · cases (decodeFields_of_undefined hop a b).symm.trans h

theorem encode_of_decodeCmd {w : CmdWord} {i : Instr} (h : decodeCmd w = .ok i) : encode i = .command w := by
  rw [encode_of_decodeFields h, cmdWord_fields]

theorem encode_decodeWire (maxLen : Nat) (c : WireContext) (b : Byte) :
    encode (decodeWire maxLen c b) = .wire c b := by
  fun_cases decodeWire maxLen c b <;> simp_all [encode]

theorem wellFormed_of_isCommand {i : Instr} (maxLen : Nat) (hi : i.isCommand = true) :
    i.wellFormed maxLen = true := by
  cases i with
  | nop | crcInit _ | crcUpdate _ | crcRead | pktSetAddr _ | pktSetCmd _ | pktSetLen _ | pktWrite _ _
  | pktGetAddr | pktGetCmd | pktGetLen | pktRead _ | encStart | decStart | statusRead | encOutcomeRead
  | decOutcomeRead | txCrcRead | rxCrcRead => rfl
  | _ => cases hi

theorem wellFormed_decodeWire (maxLen : Nat) (c : WireContext) (b : Byte) :
    (decodeWire maxLen c b).wellFormed maxLen = true := by
  fun_cases decodeWire maxLen c b <;> simp_all [Instr.wellFormed]

/-- Settles O2: a command word is the fields of its row, and a wire byte passes the test of its class. -/
theorem decodedEncodesBack : Obligations.DecodedEncodesBack := by
  intro maxLen e i h
  cases e with
  | command w => exact ⟨wellFormed_of_isCommand maxLen (isCommand_of_decodeCmd h), encode_of_decodeCmd h⟩
  | wire c b =>
    obtain rfl : decodeWire maxLen c b = i := Except.ok.inj h
    exact ⟨wellFormed_decodeWire maxLen c b, encode_decodeWire maxLen c b⟩

/-! ## Illegal words -/

theorem noOperand_error_iff {i : Instr} {op a b : Byte} :
    (∃ e, noOperand i op a b = .error e) ↔ a ≠ 0 ∨ b ≠ 0 := by
  unfold noOperand
  split <;> simp_all [imp_iff_not_or]

theorem oneOperand_error_iff {f : Byte → Instr} {op a b : Byte} :
    (∃ e, oneOperand f op a b = .error e) ↔ b ≠ 0 := by
  unfold oneOperand
  split <;> simp_all

/-- No opcode has two rows. -/
theorem opcode_kinds_disjoint :
    (∀ op ∈ noOperandOpcodes, op ∉ oneOperandOpcodes) ∧
      ∀ op ∈ twoOperandOpcodes, op ∉ noOperandOpcodes ++ oneOperandOpcodes := by
  decide

/-- The illegal fields (R82): no row, or a nonzero byte where the row has "0". -/
theorem decodeFields_error_iff (op a b : Byte) :
    (∃ e, decodeFields op a b = .error e) ↔
      op ∉ noOperandOpcodes ++ oneOperandOpcodes ++ twoOperandOpcodes ∨
      (op ∈ noOperandOpcodes ∧ (a ≠ 0 ∨ b ≠ 0)) ∨ (op ∈ oneOperandOpcodes ∧ b ≠ 0) := by
  obtain ⟨hno, htwo⟩ := opcode_kinds_disjoint
  rcases opcode_cases op with hop | hop | hop | hop
  · obtain ⟨i, hrow, _⟩ := decodeFields_of_mem_noOperand hop
    simp [hrow, noOperand_error_iff, hop, hno op hop]
  · obtain ⟨f, hrow, _⟩ := decodeFields_of_mem_oneOperand hop
    have hother : op ∉ noOperandOpcodes := fun h => hno op h hop
    simp [hrow, oneOperand_error_iff, hop, hother]
  · obtain ⟨i, hrow, _⟩ := decodeFields_of_mem_twoOperand hop a b
    have hother := htwo op hop
    simp_all
  · have herror := decodeFields_of_undefined hop a b
    exact iff_of_true ⟨_, herror⟩ (.inl hop)

theorem length_undefinedOpcodes :
    ((List.range 256).filter fun n =>
      BitVec.ofNat 8 n ∉ noOperandOpcodes ++ oneOperandOpcodes ++ twoOperandOpcodes).length = 237 := by
  decide +kernel

/-- A command that runs gives one response, and it is not `CR_ILLEGAL` (R261). -/
theorem command_not_illegal {i : Instr} {s t : State} (hi : i.isCommand = true) (h : exec i s = .next t) :
    ∃ r : Response, r.code ≠ .illegal ∧ t.ports.responses = s.ports.responses ++ [r] := by
  rcases command_cases hi h with ⟨code, data, hcode, rfl⟩ | ⟨_, _, _, rfl⟩ | ⟨_, _, u, rfl, hu⟩
  · exact ⟨⟨code, data⟩, hcode, rfl⟩
  · exact ⟨⟨.ok, 0⟩, by decide, rfl⟩
  · refine ⟨⟨.ok, 0⟩, by decide, ?_⟩
    rcases hu with ⟨_, _, rfl⟩ | ⟨_, _, rfl⟩ | ⟨_, _, _, rfl⟩ | ⟨_, _, _, _, rfl⟩ | ⟨_, _, rfl⟩ | ⟨_, rfl⟩ <;> rfl

/-- Settles O4: the rows say which words are illegal, and a word that is not runs a command. -/
theorem illegalWordsAreRefused : Obligations.IllegalWordsAreRefused := by
  refine ⟨fun w => decodeFields_error_iff _ _ _, length_undefinedOpcodes, fun w s ⟨e, he⟩ => ?_,
    fun w i s t hd h => ?_⟩
  · exact commandStep_of_error he s
  · exact command_not_illegal (isCommand_of_decodeCmd hd) ((commandStep_of_ok hd s).symm.trans h)

end Sys2Proof.Machine
end

section
/-! The wire frame: its stuffing, the one marker in it, its length and its layout (R71 to R77, R141, R142). -/

namespace Sys2Proof.Machine

/-! ## The marker and the escape pairs -/

/-- In a stuffed sequence every `FESC` is followed by a transposed code (R74). -/
theorem stuffAll_pair_of_fesc (bs : List Byte) (i : Nat) (h : (stuffAll bs)[i]? = some FESC) :
    (stuffAll bs)[i + 1]? = some TFEND ∨ (stuffAll bs)[i + 1]? = some TFESC := by
  induction bs generalizing i with
  | nil => simp at h
  | cons b bs ih =>
    rw [stuffAll_cons] at h ⊢
    rcases stuff_cases b with ⟨_, hb⟩ | ⟨_, hb⟩ | ⟨⟨_, hne⟩, hb⟩ <;> rw [hb] at h ⊢
    · match i, h with
      | 0, _ => exact .inl rfl
      | i + 2, h => exact ih i h
    · match i, h with
      | 0, _ => exact .inr rfl
      | i + 2, h => exact ih i h
    · match i, h with
      | 0, h => exact absurd (Option.some.inj h) hne
      | i + 1, h => exact ih i h

/-- Settles O33: what follows the leading `FEND` is stuffed. -/
theorem frameHasOneMarker : Obligations.FrameHasOneMarker := by
  intro c addr cmd n d
  simp only [encodeFrame_fst, List.getElem?_cons_succ]
  refine ⟨rfl, fun i h => fend_notMem_stuffAll _ (List.mem_of_getElem? h), fun i h => ?_⟩
  cases i with
  | zero => cases h
  | succ i => exact stuffAll_pair_of_fesc _ i h

/-! ## Destuffing -/

theorem destuff_cons_literal {b : Byte} (hfend : b ≠ FEND) (hfesc : b ≠ FESC) (ws : List Byte) :
    destuff (b :: ws) = (destuff ws).map (b :: ·) := by
  rw [destuff.eq_def]
  simp only [if_neg hfend, if_neg hfesc]

/-- A stuffed byte at the head of a sequence is destuffed to that byte. -/
theorem destuff_stuff_append (b : Byte) (ws : List Byte) :
    destuff (stuff b ++ ws) = (destuff ws).map (b :: ·) := by
  rcases stuff_cases b with ⟨rfl, hb⟩ | ⟨rfl, hb⟩ | ⟨⟨hfend, hfesc⟩, hb⟩ <;> rw [hb]
  · rfl
  · rfl
  · exact destuff_cons_literal hfend hfesc ws

theorem destuff_stuffAll (bs : List Byte) : destuff (stuffAll bs) = some bs := by
  induction bs with
  | nil => rfl
  | cons b bs ih => rw [stuffAll_cons, destuff_stuff_append, ih, Option.map_some]

/-- A sequence that destuffs is the stuffing of what it destuffs to. -/
theorem eq_stuffAll_of_destuff {ws bs : List Byte} (h : destuff ws = some bs) : ws = stuffAll bs := by
  fun_induction destuff ws generalizing bs with
  | case1 => cases h; rfl
  | case2 | case3 | case6 => cases h
  | case4 _ _ ih | case5 _ _ _ ih =>
    obtain ⟨as, has, rfl⟩ := Option.map_eq_some_iff.1 h
    rw [ih has]
    rfl
  | case7 b _ hfend hfesc ih =>
    obtain ⟨as, has, rfl⟩ := Option.map_eq_some_iff.1 h
    rw [ih has, stuffAll_cons, stuff, if_neg hfend, if_neg hfesc, List.singleton_append]

/-- Settles O34. -/
theorem stuffingIsInverted : Obligations.StuffingIsInverted :=
  ⟨destuff_stuffAll, fun _ _ => eq_stuffAll_of_destuff⟩

/-! ## The length -/

/-- The parts a frame is made of: the marker, the address, command and length, the payload, and the checksum. -/
theorem length_encodeFrame (c : Config) (addr : BitVec 7) (cmd n : Byte) (d : List Byte) :
    (encodeFrame c addr cmd n d).1.length =
      1 + (stuffAll (if addr ≠ 0 then [addrByte addr] else [])).length + (stuff cmd).length + (stuff n).length +
        (stuffAll d).length + (stuff (frameCrc c addr cmd n d)).length := by
  simp only [encodeFrame_fst, logical, stuffAll_append, stuffAll_cons, stuffAll_nil, List.length_cons,
    List.length_append, List.length_nil]
  omega

/-- Every logical byte, and the marker, takes at least one wire byte (R77). -/
theorem le_length_encodeFrame (c : Config) (addr : BitVec 7) (cmd n : Byte) (d : List Byte) :
    d.length + 4 ≤ (encodeFrame c addr cmd n d).1.length := by
  have hlen := (length_stuffAll (logical addr cmd n d ++ [frameCrc c addr cmd n d])).1
  rw [List.length_append, length_logical, List.length_singleton] at hlen
  rw [encodeFrame_fst, List.length_cons]
  omega

theorem ne_markers_of_toNat_lt {b : Byte} (h : b.toNat < 0xC0) : b ≠ FEND ∧ b ≠ FESC := by
  constructor <;> rintro rfl <;> simp at h

/-- The sharper upper bound of R77: a command that is no marker takes one wire byte. -/
theorem length_encodeFrame_le_of_cmd (c : Config) (addr : BitVec 7) {cmd n : Byte} (d : List Byte)
    (hcmd : cmd.toNat < 0xC0) (hn : n.toNat < 0xC0) : (encodeFrame c addr cmd n d).1.length ≤ 2 * d.length + 7 := by
  have haddr : (stuffAll (if addr ≠ 0 then [addrByte addr] else [])).length ≤ 2 := by
    split
    · exact (length_stuffAll [addrByte addr]).2
    · exact Nat.zero_le 2
  obtain ⟨hcmdFend, hcmdFesc⟩ := ne_markers_of_toNat_lt hcmd
  obtain ⟨hnFend, hnFesc⟩ := ne_markers_of_toNat_lt hn
  have hcmdOne := (length_stuff cmd).2.2 hcmdFend hcmdFesc
  have hnOne := (length_stuff n).2.2 hnFend hnFesc
  have hcrc := (length_stuff (frameCrc c addr cmd n d)).2.1
  have hd := (length_stuffAll d).2
  rw [length_encodeFrame]
  omega

/-- Settles O35: the length byte is below the markers, so it takes one wire byte. -/
theorem frameLengthIsBounded : Obligations.FrameLengthIsBounded := by
  intro c addr cmd n d hn hd
  have hsmall : n.toNat < 0xC0 := hn ▸ hd
  obtain ⟨hfend, hfesc⟩ := ne_markers_of_toNat_lt hsmall
  exact ⟨le_length_encodeFrame c addr cmd n d, length_encodeFrame_le c addr cmd d hfend hfesc,
    fun hcmd => length_encodeFrame_le_of_cmd c addr d (by omega) hsmall⟩

/-! ## The layout -/

/-- `ADDR_FLAG | addr` is a sum, for the flag is above every bit of an address (R72). -/
theorem addrByte_eq_ofNat (addr : BitVec 7) : addrByte addr = BitVec.ofNat 8 (0x80 + addr.toNat) := by
  revert addr; decide

/-- Settles O29: the logical bytes, their stuffing and the fold, each as its rule writes it. -/
theorem encodeFrameLayout : Obligations.EncodeFrameLayout := by
  intro c addr cmd n d l crc
  have hl : logical addr cmd n d = l := by
    simp only [logical, l, addrByte_eq_ofNat, ite_not, List.append_assoc, List.cons_append, List.nil_append, ne_eq]
  have hcrc : frameCrc c addr cmd n d = crc := by
    have hlead : crcLead c ++ l = if c.fendInCrc then 0xC0 :: l else l := by
      unfold crcLead
      split <;> rfl
    rw [frameCrc, hl, hlead]
    rfl
  exact Prod.ext (by rw [encodeFrame_fst, hl, hcrc]; rfl) (by rw [encodeFrame_snd, hcrc])

end Sys2Proof.Machine
end

section
/-! Words and bytes written out from the tables (R81, R82, R87). -/

namespace Sys2Proof.Machine

/-- Settles O3: each word is its three bytes, and each byte meets its row's test. -/
theorem writtenOutWordsDecode : Obligations.WrittenOutWordsDecode :=
  ⟨rfl, rfl, rfl, rfl, rfl, rfl, rfl, rfl, rfl, rfl, rfl, rfl, rfl, rfl, rfl⟩

/-- Bit 7 is what the mask `0x80` keeps (R72). -/
theorem getLsbD_seven_iff (b : Byte) : b.getLsbD 7 = true ↔ b &&& 0x80 = 0x80 := by
  revert b; decide

/-- Settles O5: the rows of R87, the two that test bit 7 by its mask. -/
theorem wireBytesAreClassified : Obligations.WireBytesAreClassified := by
  intro maxLen b
  refine ⟨rfl, rfl, rfl, ?_, ?_, rfl, rfl, rfl⟩ <;> simp only [decodeWire, getLsbD_seven_iff]

end Sys2Proof.Machine
end

section
/-! Every command word gives one response (R80): data is carried by a performed read only, and a read or a command
that is not performed does nothing else. -/

namespace Sys2Proof.Machine

/-- The commands whose rule is a read (R80). -/
def readCommand : Instr → Bool
  | .crcRead | .pktGetAddr | .pktGetCmd | .pktGetLen | .pktRead _ | .statusRead | .encOutcomeRead
  | .decOutcomeRead | .txCrcRead | .rxCrcRead => true
  | _ => false

/-- They are the ones with the opcodes of the reads. -/
theorem readCommand_iff {i : Instr} {w : CmdWord} (h : encode i = .command w) :
    readCommand i = true ↔ opOf w ∈ readOpcodes := by
  cases i <;> cases h <;> simp [readCommand, readOpcodes]

/-- `t` is `s` after one response that keeps to R80, from a command that is a read or not. -/
abbrev RespondsOnce (read : Prop) (s t : State) : Prop :=
  ∃ code data, t.ports.responses = s.ports.responses ++ [⟨code, data⟩] ∧
    (data ≠ 0x00 → code = .ok ∧ read) ∧ (code ≠ .ok ∨ read → t = s.replied code data)

section
variable {read : Prop} {s t : State} {k : Result}

theorem RespondsOnce.of_refuse (code : RespCode) : RespondsOnce read s (s.respond code 0) :=
  ⟨code, 0, rfl, fun h => absurd rfl h, fun _ => rfl⟩

theorem RespondsOnce.of_answer {data : Byte} (hread : read) (h : s.answer data = .next t) :
    RespondsOnce read s t := by
  rw [answer_next h]
  exact ⟨.ok, data, rfl, fun _ => ⟨rfl, hread⟩, fun _ => rfl⟩

theorem RespondsOnce.of_done {u : State} (hread : ¬ read) (h : u.done = .next t) (hports : u.ports = s.ports) :
    RespondsOnce read s t := by
  rw [done_next h]
  exact ⟨.ok, 0, by rw [State.respond_ports, hports], fun h => absurd rfl h, fun h => by simp [hread] at h⟩

theorem RespondsOnce.of_unlessBusy {busy : Bool} (h : s.unlessBusy busy k = .next t)
    (hk : k = .next t → RespondsOnce read s t) : RespondsOnce read s t := by
  rcases unlessBusy_next h with ⟨_, rfl⟩ | ⟨_, h⟩
  · exact .of_refuse .busy
  · exact hk h

theorem RespondsOnce.of_unlessOut {out : Bool} (h : s.unlessOut out k = .next t)
    (hk : k = .next t → RespondsOnce read s t) : RespondsOnce read s t := by
  rcases unlessOut_next h with ⟨_, rfl⟩ | ⟨_, h⟩
  · exact .of_refuse .range
  · exact hk h

end

/-- Each command by its checks, and then as a read that answers or as one that is done. -/
theorem command_respondsOnce {i : Instr} {s t : State} (hi : i.isCommand = true) (h : exec i s = .next t) :
    RespondsOnce (readCommand i = true) s t := by
  cases i with
  | nop | crcInit _ | crcUpdate _ => exact .of_done nofun h rfl
  | crcRead | statusRead => exact .of_answer rfl h
  | pktGetAddr | pktGetCmd | pktGetLen | encOutcomeRead | decOutcomeRead | txCrcRead | rxCrcRead =>
    exact .of_unlessBusy h (.of_answer rfl)
  | pktRead _ => exact .of_unlessBusy h (.of_unlessOut · (.of_answer rfl))
  | pktSetCmd _ | decStart => exact .of_unlessBusy h fun h => .of_done nofun h rfl
  | pktSetAddr _ | pktSetLen _ | pktWrite _ _ =>
    exact .of_unlessBusy h (.of_unlessOut · fun h => .of_done nofun h rfl)
  | encStart =>
    refine .of_unlessBusy h fun h => ?_
    split at h
    · cases h
    · exact .of_done nofun h rfl
  | _ => cases hi

/-- Settles O56: in a legal state every word has a next state, after a refusal as an illegal word or by its
command. -/
theorem everyCommandRespondsOnce : Obligations.EveryCommandRespondsOnce := by
  intro w s hs
  obtain ⟨⟨_, _, _, hlt, _⟩, _, ⟨hlen, _⟩, _⟩ := inv_iff.1 hs
  obtain ⟨t, ht⟩ := commandStep_next w (hlen.trans hlt.le)
  have hresponse : RespondsOnce (opOf w ∈ readOpcodes) s t := by
    rcases commandStep_cases ht with ⟨_, _, rfl⟩ | ⟨i, hd, hexec⟩
    · exact .of_refuse .illegal
    · rw [← readCommand_iff (encode_of_decodeCmd hd)]
      exact command_respondsOnce (isCommand_of_decodeCmd hd) hexec
  obtain ⟨code, data, hrest⟩ := hresponse
  exact ⟨t, code, data, ht, hrest⟩

end Sys2Proof.Machine
end

section
/-! The CRC engine (R100 to R109): its three commands, the residue of a fold, and the default table, whose algebra is
that of one bit-serial step. -/

namespace Sys2Proof.Machine

/-! ## The commands -/

/-- Settles O15: its row has one operand, and it checks nothing before it writes. -/
theorem crcInitLoadsSeed : Obligations.CrcInitLoadsSeed :=
  ⟨rowOneOperand fun _ _ => rfl, fun _ _ => rfl⟩

/-- Settles O16: its row has one operand, and `upd` is `T` of the exclusive or. -/
theorem crcUpdateFoldsByte : Obligations.CrcUpdateFoldsByte :=
  ⟨rowOneOperand fun _ _ => rfl, fun _ _ => rfl⟩

/-- Settles O17: its row has no operand, and `Result` is the accumulator itself. -/
theorem crcReadReturnsAccumulator : Obligations.CrcReadReturnsAccumulator :=
  ⟨rowNoOperand fun _ _ => rfl, fun _ => rfl⟩

/-! ## The residue -/

theorem T_zero {c : Config} (hc : c.Valid) : T c 0 = 0 := hc.1

/-- Settles O18: the fold of the longer list ends with `upd` of the accumulator and itself. -/
theorem foldingOwnValueGivesZero : Obligations.FoldingOwnValueGivesZero := by
  refine ⟨upd_self, fun c seed bytes hc => ?_⟩
  calc fold c seed (bytes ++ [fold c seed bytes])
      = upd c (fold c seed bytes) (fold c seed bytes) := by rw [fold_append, fold_cons, fold_nil]
    _ = T c 0 := upd_self c _
    _ = 0 := T_zero hc

/-! ## The default table (R109) -/

/-- The sixteen rows, read in order. -/
theorem defaultEntries_eq_map_serialEntry :
    Config.defaultEntries = (List.range 256).map fun n => serialEntry (BitVec.ofNat 8 n) := by decide +kernel

theorem T_default_eq_serialEntry (i : Byte) : T Config.default i = serialEntry i := by
  simp only [T, Config.default, Config.defaultTable, Vector.getElem_mk, List.getElem_toArray,
    defaultEntries_eq_map_serialEntry, List.getElem_map, List.getElem_range, BitVec.ofNat_toNat, BitVec.setWidth_eq]

/-- One bit of the Wake form is one bit-serial step of the accumulator with the rest of the byte folded in. -/
theorem wakeBit_semiconj : Function.Semiconj (fun x : Byte × Byte => x.1 ^^^ x.2) wakeBit serialBit := by
  rintro ⟨c, b⟩
  have hmask : (c ^^^ 0x18) >>> 1 ||| (0x80 : Byte) = c >>> 1 ^^^ 0x8C := by revert c; decide
  simp only [wakeBit, serialBit, BitVec.xor_comm b c]
  split
  · rw [hmask, BitVec.ushiftRight_xor_distrib]
    ac_rfl
  · rw [BitVec.ushiftRight_xor_distrib]

/-- After eight bits nothing of the byte is left. -/
theorem wakeBit_iterate_snd (c b : Byte) : (wakeBit^[8] (c, b)).2 = 0#8 := by
  have h : Function.Semiconj Prod.snd wakeBit (· >>> 1 : Byte → Byte) := fun _ => rfl
  have hshift : ∀ x : Byte, (· >>> 1 : Byte → Byte)^[8] x = 0#8 := by decide
  rw [h.iterate_right 8 (c, b), hshift]

theorem wakeUpd_eq_serialEntry (c b : Byte) : wakeUpd c b = serialEntry (c ^^^ b) := by
  calc wakeUpd c b
      = wakeUpd c b ^^^ (wakeBit^[8] (c, b)).2 := by rw [wakeBit_iterate_snd, BitVec.xor_zero]
    _ = serialEntry (c ^^^ b) := wakeBit_semiconj.iterate_right 8 (c, b)

/-- Settles O19: the table entry by entry, and the Wake form by its bit-serial form. -/
theorem defaultTableIsBitSerial : Obligations.DefaultTableIsBitSerial :=
  ⟨T_default_eq_serialEntry, fun c b => by
    rw [upd, T_default_eq_serialEntry, wakeUpd_eq_serialEntry]⟩

/-! ## Its algebra (R108) -/

/-- The bits shifted in from the constant go by the lowest bits, so they add up as those do. -/
theorem serialBit_xor (x y : Byte) : serialBit (x ^^^ y) = serialBit x ^^^ serialBit y := by
  have hfeed : ∀ c : Byte, serialBit c = c >>> 1 ^^^ if c.getLsbD 0 then 0x8C else 0 := by decide
  have hxor : ∀ p q : Bool, (if p ^^ q then 0x8C else 0 : Byte) =
      (if p then 0x8C else 0) ^^^ if q then 0x8C else 0 := by decide
  rw [hfeed, hfeed x, hfeed y, BitVec.getLsbD_xor, hxor, BitVec.ushiftRight_xor_distrib]
  ac_rfl

/-- A bit-serial step loses nothing: the constant marks the lowest bit in bit 7. -/
theorem serialBit_injective : Function.Injective serialBit := by
  have hker : ∀ c : Byte, serialBit c = 0 → c = 0 := by decide
  intro x y h
  exact BitVec.xor_eq_zero_iff.1 (hker _ (by simp [serialBit_xor, h]))

theorem T_default_xor (x y : Byte) : T Config.default (x ^^^ y) = T Config.default x ^^^ T Config.default y := by
  simp only [T_default_eq_serialEntry]
  exact Function.Semiconj₂.iterate serialBit_xor 8 x y

theorem T_default_injective : Function.Injective (T Config.default) := by
  rw [funext T_default_eq_serialEntry]
  exact serialBit_injective.iterate 8

/-- Settles O20: eight linear and injective steps are linear and injective, and `T` is 0x00 on 0x00 alone. -/
theorem defaultTableIsLinearPermutation : Obligations.DefaultTableIsLinearPermutation := by
  refine ⟨T_default_xor, Finite.injective_iff_bijective.1 T_default_injective, fun c b => ?_⟩
  calc upd Config.default c b = 0
      ↔ T Config.default (c ^^^ b) = T Config.default 0 := by rw [upd, T_zero default_valid]
    _ ↔ c ^^^ b = 0 := T_default_injective.eq_iff
    _ ↔ b = c := BitVec.xor_eq_zero_iff.trans eq_comm

end Sys2Proof.Machine
end

section
/-! The packet register commands (R120 to R127): the outcome of each check, then each command by its checks. -/

namespace Sys2Proof.Machine

/-! ## The checks (R261) -/

section
variable {s : State} {busy out : Bool} {k : Result}

theorem anyBusy_of_idle (he : s.encBusy = false) (hd : s.decBusy = false) : s.anyBusy = false :=
  (anyBusy_eq_false s).2 ⟨he, hd⟩

theorem unlessBusy_of_idle (hb : busy = false) : s.unlessBusy busy k = k := by
  rw [hb, unlessBusy_false]

theorem unlessBusy_of_busy (hb : busy = true) : s.unlessBusy busy k = .next (s.replied .busy 0x00) := by
  rw [hb, unlessBusy_true]
  rfl

/-- A command that needs both operations idle is refused during either. -/
theorem unlessBusy_anyBusy_of_busy (h : s.encBusy = true ∨ s.decBusy = true) :
    s.unlessBusy s.anyBusy k = .next (s.replied .busy 0x00) :=
  unlessBusy_of_busy ((anyBusy_eq_true s).2 h)

/-- A command with both checks goes on when it passes both. -/
theorem unlessBusy_unlessOut_of_in (hb : busy = false) (ho : out = false) :
    s.unlessBusy busy (s.unlessOut out k) = k := by
  rw [unlessBusy_of_idle hb, ho, unlessOut_false]

/-- It is refused with `CR_RANGE` when it passes the first only. -/
theorem unlessBusy_unlessOut_of_out (hb : busy = false) (ho : out = true) :
    s.unlessBusy busy (s.unlessOut out k) = .next (s.replied .range 0x00) := by
  rw [unlessBusy_of_idle hb, ho, unlessOut_true]
  rfl

end

/-! ## The operands (R83) -/

section
variable {c : Config} {a : Byte}

/-- Bit 7 is set from 0x80 on. -/
theorem addrOutOfRange_eq_decide (a : Byte) : addrOutOfRange a = decide (0x7F < a.toNat) := by
  revert a; decide

theorem addrOutOfRange_eq_false (h : a.toNat ≤ 0x7F) : addrOutOfRange a = false := by
  rw [addrOutOfRange_eq_decide, decide_eq_false h.not_gt]

theorem addrOutOfRange_eq_true (h : 0x7F < a.toNat) : addrOutOfRange a = true := by
  rw [addrOutOfRange_eq_decide, decide_eq_true h]

theorem addrOperand_eq_ofNat (a : Byte) : addrOperand a = BitVec.ofNat 7 a.toNat := rfl

theorem lenOutOfRange_eq_false (h : a.toNat ≤ c.maxLen) : lenOutOfRange c a = false :=
  decide_eq_false h.not_gt

theorem lenOutOfRange_eq_true (h : c.maxLen < a.toNat) : lenOutOfRange c a = true := decide_eq_true h

theorem indexOutOfRange_eq_false (h : a.toNat < c.payloadCap) : indexOutOfRange c a = false :=
  decide_eq_false h.not_ge

theorem indexOutOfRange_eq_true (h : c.payloadCap ≤ a.toNat) : indexOutOfRange c a = true := decide_eq_true h

end

/-! ## The writes (R120 to R123) -/

/-- Settles O23: bit 7 of the operand is what is out of range, and the other seven bits are what is written. -/
theorem pktSetAddrWritesAddress : Obligations.PktSetAddrWritesAddress := by
  refine ⟨rowOneOperand fun _ _ => rfl, fun a s =>
    ⟨fun he hd ha => ?_, unlessBusy_anyBusy_of_busy, fun he hd ha => ?_⟩⟩
  · rw [← addrOperand_eq_ofNat]
    exact unlessBusy_unlessOut_of_in (anyBusy_of_idle he hd) (addrOutOfRange_eq_false ha)
  · exact unlessBusy_unlessOut_of_out (anyBusy_of_idle he hd) (addrOutOfRange_eq_true ha)

/-- Settles O24: the only check is that nothing is in progress. -/
theorem pktSetCmdWritesCommand : Obligations.PktSetCmdWritesCommand :=
  ⟨rowOneOperand fun _ _ => rfl, fun _ _ =>
    ⟨fun he hd => unlessBusy_of_idle (anyBusy_of_idle he hd), unlessBusy_anyBusy_of_busy⟩⟩

/-- Settles O25: the operand is compared with `P_MAX_LEN`, and written as it is. -/
theorem pktSetLenWritesLength : Obligations.PktSetLenWritesLength := by
  refine ⟨rowOneOperand fun _ _ => rfl, fun n s =>
    ⟨fun he hd hn => ?_, unlessBusy_anyBusy_of_busy, fun he hd hn => ?_⟩⟩
  · exact unlessBusy_unlessOut_of_in (anyBusy_of_idle he hd) (lenOutOfRange_eq_false hn)
  · exact unlessBusy_unlessOut_of_out (anyBusy_of_idle he hd) (lenOutOfRange_eq_true hn)

/-- Settles O26: the new cells are those of `Memory.write`, which `Memory.read_write` reads. -/
theorem pktWriteStoresOneCell : Obligations.PktWriteStoresOneCell := by
  refine ⟨decodeCmd_cmdWord 0x13, fun i d s =>
    ⟨fun hwf he hd hi => ⟨s.pktData.write i.toNat d, ?_, fun j => Memory.read_write _ _ _ j hwf⟩,
      unlessBusy_anyBusy_of_busy, fun he hd hi => ?_⟩⟩
  · exact unlessBusy_unlessOut_of_in (anyBusy_of_idle he hd) (indexOutOfRange_eq_false hi)
  · exact unlessBusy_unlessOut_of_out (anyBusy_of_idle he hd) (indexOutOfRange_eq_true hi)

/-! ## The reads (R124 to R127) -/

/-- Settles O27: each read checks `DEC_BUSY` alone; the address is widened to a byte. -/
theorem pktGetReadsRegister : Obligations.PktGetReadsRegister := by
  refine ⟨rowNoOperand fun _ _ => rfl, rowNoOperand fun _ _ => rfl, rowNoOperand fun _ _ => rfl, fun s =>
    ⟨fun hd => ⟨?_, unlessBusy_of_idle hd, unlessBusy_of_idle hd⟩,
      fun hd => ⟨unlessBusy_of_busy hd, unlessBusy_of_busy hd, unlessBusy_of_busy hd⟩⟩⟩
  rw [BitVec.ofNat_toNat]
  exact unlessBusy_of_idle hd

/-- Settles O28: the read checks `DEC_BUSY` alone, and then its index. -/
theorem pktReadReadsOneCell : Obligations.PktReadReadsOneCell :=
  ⟨rowOneOperand fun _ _ => rfl, fun _ _ =>
    ⟨fun hd hi => unlessBusy_unlessOut_of_in hd (indexOutOfRange_eq_false hi), unlessBusy_of_busy,
      fun hd hi => unlessBusy_unlessOut_of_out hd (indexOutOfRange_eq_true hi)⟩⟩

end Sys2Proof.Machine
end

section
/-! The encoder (R143 to R146): `ENC_START`, the two answers to an offer, and a run of acknowledgements. -/

namespace Sys2Proof.Machine

/-! ## One command or answer -/

/-- Settles O30: a legal `PKT_LEN` is within the cells, and `State.frame` is the frame of the packet registers. -/
theorem encStartLatchesFrame : Obligations.EncStartLatchesFrame := by
  refine ⟨rowNoOperand fun _ _ => rfl, fun s => ⟨fun he hd hc hlen => ?_, unlessBusy_anyBusy_of_busy⟩⟩
  obtain ⟨_, _, _, hcap, _⟩ := hc
  have hcells : ¬s.cfg.payloadCap < s.pktLen.toNat := (hlen.trans hcap.le).not_gt
  exact (unlessBusy_of_idle (anyBusy_of_idle he hd)).trans (if_neg hcells)

theorem offer_of_idle {s : State} (hb : s.encBusy = false) : s.offer = none := by
  simp [State.offer, hb]

/-- An acknowledgement writes `ENC_PTR` and the line, and on the last byte ends the encode. -/
theorem txAck_of_encBusy {s : State} (b : Byte) (hb : s.encBusy = true) :
    txAck b s =
      { s with
        encPtr := s.encPtr + 1
        ports.line := s.ports.line ++ [b]
        encBusy := decide (s.encPtr + 1 ≠ s.encWire.length)
        encOutcome := if s.encPtr + 1 = s.encWire.length then .ok else s.encOutcome } := by
  by_cases hlast : s.encPtr + 1 = s.encWire.length
  · simp [txAck, endEncode, hlast]
  · simp [txAck, hlast, hb]

/-- Settles O31: an offer needs `ENC_BUSY`, and its acknowledgement is `txAck`. -/
theorem txAckEmitsOfferedByte : Obligations.TxAckEmitsOfferedByte :=
  ⟨fun _ => offer_of_idle, fun _ b hb hbyte => ⟨offer_eq_some.2 ⟨hb, hbyte⟩, txAck_of_encBusy b hb⟩⟩

/-- Settles O32: an offer needs `ENC_BUSY`, and a failure ends the encode and does no more. -/
theorem txFailAbortsEncode : Obligations.TxFailAbortsEncode :=
  fun _ _ hoffer => ⟨(offer_eq_some.1 hoffer).1, rfl⟩

/-! ## A run of acknowledgements -/

/-- The encode that `s` starts, with the first `k` bytes of its wire image emitted. -/
def State.emitted (s : State) (k : Nat) : State :=
  { s with
    encPtr := k
    ports.line := s.ports.line ++ s.encWire.take k
    encBusy := decide (k < s.encWire.length)
    encOutcome := if s.encWire.length ≤ k then .ok else s.encOutcome }

theorem emitted_zero {s : State} (hb : s.encBusy = true) (hp : s.encPtr = 0) (hne : 0 < s.encWire.length) :
    s.emitted 0 = s := by
  cases s
  simp_all [State.emitted, hne.not_ge]

theorem offer_emitted {s : State} {k : Nat} (hk : k < s.encWire.length) :
    (s.emitted k).offer = some s.encWire[k] :=
  offer_eq_some.2 ⟨decide_eq_true hk, List.getElem?_eq_getElem hk⟩

/-- Acknowledging byte `k` leaves one byte more emitted, and the encode over when there is no byte after it. -/
theorem txAck_emitted {s : State} {k : Nat} (hk : k < s.encWire.length) :
    txAck s.encWire[k] (s.emitted k) = s.emitted (k + 1) := by
  have hlast : k + 1 = s.encWire.length ↔ s.encWire.length ≤ k + 1 := by omega
  rw [txAck_of_encBusy _ (decide_eq_true hk)]
  simp [State.emitted, hk.not_ge, hlast, List.take_append_getElem]

/-- While bytes are left, `k` acknowledgements emit `k` bytes more. -/
theorem acknowledge_emitted {s : State} {j k : Nat} (h : j + k ≤ s.encWire.length) :
    acknowledge k (s.emitted j) = s.emitted (j + k) := by
  induction k generalizing j with
  | zero => rfl
  | succ k ih =>
    have hj : j < s.encWire.length := by omega
    calc acknowledge (k + 1) (s.emitted j)
        = acknowledge k (txAck s.encWire[j] (s.emitted j)) := by simp only [acknowledge, offer_emitted hj]
      _ = acknowledge k (s.emitted (j + 1)) := by rw [txAck_emitted hj]
      _ = s.emitted (j + 1 + k) := ih (by omega)
      _ = s.emitted (j + (k + 1)) := by rw [Nat.add_right_comm, Nat.add_assoc]

/-- Settles O36: `k` acknowledgements leave the first `k` bytes emitted, which is what `State.emitted` writes. -/
theorem acknowledgedEncodeEmitsFrame : Obligations.AcknowledgedEncodeEmitsFrame := by
  intro s k hb hp hk hpos
  have hrun : acknowledge k s = s.emitted k := by
    simpa [emitted_zero hb hp (hpos.trans_le hk)] using acknowledge_emitted (s := s) (j := 0) (k := k) (by omega)
  rw [hrun]
  exact ⟨rfl, rfl, rfl, decide_eq_true_iff, fun hend => if_pos hend.ge⟩

end Sys2Proof.Machine
end

section
/-! One decode event at a time (R170 to R184): the context of a decode in progress, the class each byte has there,
and what the class does. -/

namespace Sys2Proof.Machine

/-! ## The start, and the dispatch of an event -/

/-- Settles O37: the row has no operands, and the one check is that nothing is in progress. -/
theorem decStartBeginsScan : Obligations.DecStartBeginsScan :=
  ⟨rowNoOperand fun _ _ => rfl, fun _ =>
    ⟨fun he hd => unlessBusy_of_idle (anyBusy_of_idle he hd), unlessBusy_anyBusy_of_busy⟩⟩

/-- A decode in progress outside phase `IDLE` takes an event, in the context R171 reads off phase and `D_ESC`. -/
theorem wireContext_of_busy {s : State} (hb : s.decBusy = true) (hp : s.dPhase ≠ .idle) :
    s.wireContext = some (if s.dPhase = .sync then .sync else if s.dEsc = true then .escaped else .field) := by
  cases hphase : s.dPhase with
  | idle => exact absurd hphase hp
  | sync => exact wireContext_sync hb hphase
  | field p => simp [State.wireContext, hb, hphase, apply_ite some]

theorem decoderTurn_of_event {s : State} {c : WireContext} {e : RxEvent} {es : List RxEvent}
    (hc : s.wireContext = some c) (h : s.ports.events = e :: es) :
    decoderTurn s = rxStep c e { s with ports.events := es } := by
  simp only [decoderTurn, hc, h]

/-- Settles O7: the step is the decoder's turn, and a byte's class is that of its context. -/
theorem stepDispatchesRxEvent : Obligations.StepDispatchesRxEvent := by
  intro s e as es hturns hevents hb hp s'
  have hturn : step s = rxStep (if s.dPhase = .sync then .sync else if s.dEsc = true then .escaped else .field) e s' :=
    (step_of_turn hturns).trans
      (decoderTurn_of_event (s := { s with ports.turns := as }) (wireContext_of_busy hb hp) hevents)
  rw [hturn]
  cases e with
  | byte r =>
    by_cases hsync : s.dPhase = .sync
    · simp only [if_pos hsync]
      rfl
    by_cases hesc : s.dEsc = true
    · simp only [if_neg hsync, if_pos hesc]
      rfl
    · simp only [if_neg hsync, if_neg hesc, rxStep, decodeWire, apply_ite (exec · s')]
  | timeout => rfl
  | error => rfl

/-! ## The end of a decode (R174, R185, R186) -/

theorem terminate_ended_self (code : DecOutcome) (s : State) : DecodeEnded s (terminate code s) code s.rxCrc :=
  terminate_ended code rfl rfl rfl rfl ⟨rfl, rfl, rfl, rfl, rfl⟩ rfl rfl

/-- Settles O38: there is a context, and in every context the event is a `terminate`. -/
theorem timeoutAndErrorEndDecode : Obligations.TimeoutAndErrorEndDecode :=
  fun s hb hp => ⟨_, wireContext_of_busy hb hp, ⟨_, rfl, terminate_ended_self .timeout s⟩,
    ⟨_, rfl, terminate_ended_self .transportError s⟩⟩

theorem drawRest_read {s : State} (hwf : s.pktData.wf = true) {i : Nat}
    (hi : i < s.pktLen.toNat ∨ s.cfg.payloadCap ≤ i) : s.drawRest.pktData.read i = s.pktData.read i :=
  (Memory.read_fill _ _ _ _ i hwf).trans (if_neg (by omega))

theorem drawPacket_read {s : State} (hwf : s.pktData.wf = true) {i : Nat} (hi : s.cfg.payloadCap ≤ i) :
    s.drawPacket.pktData.read i = s.pktData.read i :=
  (Memory.read_fill _ _ _ _ i hwf).trans (if_neg (by omega))

theorem drawPacket_pktLen_le (s : State) : s.drawPacket.pktLen.toNat ≤ s.cfg.maxLen := by
  have hmod := Nat.mod_lt (s.drawn (s.cfg.payloadCap + 2)).toNat (Nat.succ_pos s.cfg.maxLen)
  exact (BitVec.toNat_ofNat _ _).trans_le ((Nat.mod_le _ _).trans (Nat.le_of_lt_succ hmod))

theorem terminate_ok_read {s : State} (hwf : s.pktData.wf = true) {i : Nat}
    (hi : i < s.pktLen.toNat ∨ s.cfg.payloadCap ≤ i) : (terminate .ok s).pktData.read i = s.pktData.read i :=
  drawRest_read (s := { s with decBusy := false, dPhase := .idle, dEsc := false, decOutcome := .ok }) hwf hi

theorem terminate_of_ne_ok {code : DecOutcome} (h : code ≠ .ok) (s : State) :
    terminate code s =
      State.drawPacket { s with decBusy := false, dPhase := .idle, dEsc := false, decOutcome := code } := if_neg h

/-- Settles O49: after `Ok` the cells from `PKT_LEN` on are drawn, after a failure all of them, and never one past
the last. -/
theorem terminateLeavesPacketFree : Obligations.TerminateLeavesPacketFree := by
  intro s code _ hwf
  refine ⟨terminate_ended_self code s, fun hcode => ?_, ?_⟩
  · rw [terminate_of_ne_ok hcode]
    exact ⟨drawPacket_pktLen_le _, fun i hi => drawPacket_read hwf hi⟩
  · rintro rfl
    obtain ⟨haddr, hcmd, hlen⟩ := terminate_ok_registers s
    exact ⟨haddr, hcmd, hlen, fun i hi => terminate_ok_read hwf hi⟩

/-! ## Raw bytes -/

/-- Settles O39: both classes run in `SYNC`, where `D_ESC` does not count. -/
theorem syncScansForMarker : Obligations.SyncScansForMarker := by
  intro s hb hp
  have hctx := inContext_of_wireContext (wireContext_sync hb hp)
  refine ⟨?_, fun r hr => ?_⟩
  · rw [← fold_crcLead]
    exact onByte_eq hctx rfl
  · have hclass : decodeWire s.cfg.maxLen .sync r = .syncOther r := if_neg hr
    refine ⟨fun hne => ?_, fun hlast => ⟨_, ?_, terminate_ended_self .syncError _⟩⟩
    · exact (onByte_eq hctx hclass).trans (congrArg Host.Outcome.next (if_neg hne))
    · exact (onByte_eq hctx hclass).trans (congrArg Host.Outcome.next (if_pos hlast))

/-- Settles O41. -/
theorem escapePrefixIsNotFolded : Obligations.EscapePrefixIsNotFolded :=
  fun _ _ hb hp he => onByte_eq (inContext_of_wireContext (wireContext_field hb hp he)) rfl

/-- In a legal state the cell a payload byte fills exists (R42, R50). -/
theorem cell_of_inv {s : State} (hs : s.Inv) (hp : s.dPhase = .field .data) : s.dIdx < s.cfg.payloadCap := by
  obtain ⟨⟨_, _, _, hcap, _⟩, _, ⟨hlen, _⟩, _, _, _, hdata, _⟩ := inv_iff.1 hs
  exact (hdata hp).trans_le (hlen.trans hcap.le)

section
variable {s : State} {p : FieldPhase} (hb : s.decBusy = true) (hp : s.dPhase = .field p)
include hb hp

/-- The pair `FESC TFEND` acts as the logical byte `FEND` (R176). -/
theorem exec_escTfend (he : s.dEsc = true) : exec .escTfend s = field FEND { s with dEsc := false } :=
  onByte_eq (inContext_of_wireContext (wireContext_escaped hb hp he)) rfl

/-- The pair `FESC TFESC` acts as the logical byte `FESC` (R176). -/
theorem exec_escTfesc (he : s.dEsc = true) : exec .escTfesc s = field FESC { s with dEsc := false } :=
  onByte_eq (inContext_of_wireContext (wireContext_escaped hb hp he)) rfl

/-- A raw byte that is no marker acts as the logical byte it is (R171). -/
theorem exec_fieldLiteral {v : Byte} (he : s.dEsc = false) (hfend : v ≠ FEND) (hfesc : v ≠ FESC) :
    exec (.fieldLiteral v) s = field v s :=
  onByte_eq (inContext_of_wireContext (wireContext_field hb hp he)) ((if_neg hfesc).trans (if_neg hfend))

end

/-- Settles O40: a pair runs the logical byte it stands for; any other byte terminates before a fold. -/
theorem escapePairsAreUndone : Obligations.EscapePairsAreUndone := by
  intro s p hs hb hp he s'
  have hctx := inContext_of_wireContext (wireContext_escaped hb hp he)
  have htaken : ∀ v, ∃ t, field v s' = .next t := fun _ => field_next hb hp (cell_of_inv (s := s) hs)
  refine ⟨?_, ?_, fun r hfend hfesc => ?_⟩
  · obtain ⟨t, ht⟩ := htaken FEND
    exact ⟨t, (exec_escTfend hb hp he).trans ht, (field_eq_exec (s := s') hp FEND).symm.trans ht⟩
  · obtain ⟨t, ht⟩ := htaken FESC
    exact ⟨t, (exec_escTfesc hb hp he).trans ht, (field_eq_exec (s := s') hp FESC).symm.trans ht⟩
  · exact ⟨_, onByte_eq hctx ((if_neg hfend).trans (if_neg hfesc)),
      terminate_ended _ rfl rfl rfl rfl ⟨rfl, rfl, rfl, rfl, rfl⟩ rfl rfl⟩

end Sys2Proof.Machine
end

section
/-! Logical bytes, and the raw bytes that act as one (R176 to R184): a byte in its phase runs its class. -/

namespace Sys2Proof.Machine

/-- Settles O42: under `DATA` the raw `FEND` is the logical byte, under `RESYNC` the accumulator starts over. -/
theorem rawMarkerInsideFrame : Obligations.RawMarkerInsideFrame := by
  intro s p hs hb hp he
  have hctx := inContext_of_wireContext (wireContext_field hb hp he)
  have hrun : exec .fieldRawFend s = _ := onByte_eq hctx rfl
  rw [hrun]
  refine ⟨fun hmode => ?_, fun hmode => ?_⟩
  · obtain ⟨t, ht⟩ := field_next (v := FEND) hb hp (cell_of_inv hs)
    exact ⟨t, by rwa [hmode], (field_eq_exec hp FEND).symm.trans ht⟩
  · rw [← fold_crcLead, hmode]

/-- Whatever a logical byte does, it has been folded (R179). -/
theorem field_rxCrc {v : Byte} {s t : State} (h : field v s = .next t) : t.rxCrc = upd s.cfg s.rxCrc v := by
  obtain ⟨_, _, _, hcases⟩ := field_cases h
  rcases hcases with
    ⟨code, _, rfl⟩ | ⟨_, _, rfl⟩ | ⟨_, rfl⟩ | ⟨_, rfl⟩ | ⟨_, _, rfl⟩ | ⟨_, _, rfl⟩
  · exact terminate_rxCrc (s.foldRx v) code
  all_goals rfl

/-- Settles O43: the class R87 gives the byte is what `field` runs, and so is a literal byte's. -/
theorem logicalBytesAreFoldedFirst : Obligations.LogicalBytesAreFoldedFirst := by
  intro s p v hs hb hp
  obtain ⟨t, ht⟩ := field_next (v := v) hb hp (cell_of_inv hs)
  exact ⟨t, (field_eq_exec hp v).symm.trans ht, field_rxCrc ht,
    fun he hfend hfesc => (exec_fieldLiteral hb hp he hfend hfesc).trans ht⟩

/-! ## The classes of a logical byte (R87) -/

section
variable {maxLen : Nat} {v : Byte}

theorem decodeWire_addrOrCmd_of_le (h : 0x80 ≤ v.toNat) :
    decodeWire maxLen (.logical .addrOrCmd) v = .logAddrByte v := if_pos (addrOutOfRange_eq_true h)

theorem decodeWire_addrOrCmd_of_lt (h : v.toNat < 0x80) :
    decodeWire maxLen (.logical .addrOrCmd) v = .logBcastCmd v :=
  if_neg (ne_true_of_eq_false (addrOutOfRange_eq_false (Nat.le_of_lt_succ h)))

theorem decodeWire_cmd_of_le (h : 0x80 ≤ v.toNat) :
    decodeWire maxLen (.logical .cmd) v = .logCmdAddrErr v := if_pos (addrOutOfRange_eq_true h)

theorem decodeWire_cmd_of_lt (h : v.toNat < 0x80) : decodeWire maxLen (.logical .cmd) v = .logCmd v :=
  if_neg (ne_true_of_eq_false (addrOutOfRange_eq_false (Nat.le_of_lt_succ h)))

theorem decodeWire_len_of_le (h : v.toNat ≤ maxLen) : decodeWire maxLen (.logical .len) v = .logLen v := if_pos h

theorem decodeWire_len_of_lt (h : maxLen < v.toNat) : decodeWire maxLen (.logical .len) v = .logLenErr v :=
  if_neg h.not_ge

end

/-! ## What each class does -/

/-- The address is the byte less its flag (R72). -/
theorem extractLsb'_eq_ofNat_sub {v : Byte} (h : 0x80 ≤ v.toNat) :
    v.extractLsb' 0 7 = BitVec.ofNat 7 (v.toNat - 0x80) := by
  revert v; decide

/-- Settles O44. -/
theorem addressOrCommandByte : Obligations.AddressOrCommandByte := by
  intro s v hb hp
  have hctx := inContext_logical hb hp
  refine ⟨fun hv => ?_, fun hv => onByte_eq hctx (decodeWire_addrOrCmd_of_lt hv)⟩
  rw [← extractLsb'_eq_ofNat_sub hv]
  exact onByte_eq hctx (decodeWire_addrOrCmd_of_le hv)

/-- Settles O45: the byte is folded before the decode ends. -/
theorem commandByteAfterAddress : Obligations.CommandByteAfterAddress := by
  intro s v hb hp
  have hctx := inContext_logical hb hp
  exact ⟨fun hv => onByte_eq hctx (decodeWire_cmd_of_lt hv), fun hv =>
    ⟨_, onByte_eq hctx (decodeWire_cmd_of_le hv), terminate_ended_self .addressError (s.foldRx v)⟩⟩

/-- Settles O46: the byte is folded before the decode ends. -/
theorem lengthByte : Obligations.LengthByte := by
  intro s v hb hp
  have hctx := inContext_logical hb hp
  exact ⟨fun hv => onByte_eq hctx (decodeWire_len_of_le hv), fun hv =>
    ⟨_, onByte_eq hctx (decodeWire_len_of_lt hv), terminate_ended_self .lengthError (s.foldRx v)⟩⟩

theorem exec_logData {s : State} (v : Byte) (hb : s.decBusy = true) (hp : s.dPhase = .field .data)
    (hcell : s.dIdx < s.cfg.payloadCap) :
    exec (.logData v) s = .next
      { s.foldRx v with
        pktData := s.pktData.write s.dIdx v
        dIdx := s.dIdx + 1
        dPhase := if s.dIdx + 1 = s.pktLen.toNat then .field .crc else .field .data } :=
  (onByte_eq (inContext_logical hb hp) rfl).trans (if_pos hcell)

/-- Settles O47: the new cells are those of `Memory.write`, which `Memory.read_write` reads. -/
theorem payloadByteFillsCell : Obligations.PayloadByteFillsCell :=
  fun _ v hwf hb hp hcell => ⟨_, exec_logData v hb hp hcell, fun j => Memory.read_write _ _ v j hwf⟩

/-- Settles O48: after the fold, `Ok` keeps the packet's fields and the cells below `PKT_LEN`. -/
theorem checksumByteDecides : Obligations.ChecksumByteDecides := by
  intro s v hwf hb hp acc
  have hrun : exec (.logCrc v) s = .next (terminate (if acc = 0 then .ok else .checksumError) (s.foldRx v)) :=
    onByte_eq (inContext_logical hb hp) rfl
  rw [hrun]
  refine ⟨fun hacc => ?_, fun hacc => ?_⟩
  · rw [if_pos hacc]
    obtain ⟨haddr, hcmd, hlen⟩ := terminate_ok_registers (s.foldRx v)
    exact ⟨_, rfl, terminate_ended .ok hacc rfl rfl rfl ⟨rfl, rfl, rfl, rfl, rfl⟩ rfl rfl, haddr, hcmd, hlen,
      fun i hi => terminate_ok_read (s := s.foldRx v) hwf (.inl hi)⟩
  · rw [if_neg hacc]
    exact ⟨_, rfl, terminate_ended_self .checksumError (s.foldRx v)⟩

end Sys2Proof.Machine
end

section
/-! Which decodes end `Ok` (R184, R263): no command ends a decode, no other event ends one `Ok`, and the checksum byte
does only with the accumulator at 0x00. -/

namespace Sys2Proof.Machine

/-- A decode in `t` that is over and was `Ok` has left the residue 0x00. -/
def OkMeansZero (t : State) : Prop := t.decBusy = false → t.decOutcome = .ok → t.rxCrc = 0x00

theorem okMeansZero_of_busy {t : State} (hb : t.decBusy = true) : OkMeansZero t := by
  simp [OkMeansZero, hb]

theorem okMeansZero_terminate {code : DecOutcome} (hcode : code ≠ .ok) (s : State) :
    OkMeansZero (terminate code s) := by
  simp [OkMeansZero, hcode]

theorem command_okMeansZero {i : Instr} {s t : State} (hi : i.isCommand = true) (hb : s.decBusy = true)
    (h : exec i s = .next t) : OkMeansZero t := by
  rcases command_cases hi h with ⟨_, _, _, rfl⟩ | ⟨_, _, _, rfl⟩ | ⟨_, hidle, _⟩
  · exact okMeansZero_of_busy hb
  · exact okMeansZero_of_busy hb
  · exact absurd hb (ne_true_of_eq_false hidle)

theorem commandStep_okMeansZero {w : CmdWord} {s t : State} (hb : s.decBusy = true)
    (h : commandStep w s = .next t) : OkMeansZero t := by
  rcases isCommand_commandStep h with ⟨_, _, rfl⟩ | ⟨_, _, hi, h⟩
  · exact okMeansZero_of_busy hb
  · exact command_okMeansZero hi hb h

theorem field_okMeansZero {v : Byte} {s t : State} (h : field v s = .next t) : OkMeansZero t := by
  obtain ⟨hb, _, _, hcases⟩ := field_cases h
  rcases hcases with
    ⟨code, hcode | ⟨_, hzero⟩, rfl⟩ | ⟨_, _, rfl⟩ | ⟨_, rfl⟩ | ⟨_, rfl⟩ | ⟨_, _, rfl⟩ | ⟨_, _, rfl⟩
  · exact okMeansZero_terminate hcode _
  · exact fun _ _ => (terminate_rxCrc (s.foldRx v) code).trans hzero
  all_goals exact okMeansZero_of_busy hb

theorem wire_okMeansZero {i : Instr} {s t : State} (hi : i.isCommand = false) (h : exec i s = .next t) :
    OkMeansZero t := by
  rcases wire_cases hi h with ⟨hb, _, hsync⟩ | ⟨hb, _, hraw⟩ | ⟨_, _, _, hfield⟩
  · rcases hsync with rfl | ⟨_, rfl⟩ | rfl
    · exact okMeansZero_of_busy hb
    · exact okMeansZero_of_busy hb
    · exact okMeansZero_terminate (code := .syncError) nofun _
  · rcases hraw with ⟨_, rfl⟩ | ⟨_, rfl⟩ | rfl
    · exact okMeansZero_of_busy hb
    · exact okMeansZero_of_busy hb
    · exact okMeansZero_terminate (code := .staffingError) nofun _
  · exact field_okMeansZero hfield

theorem rxStep_okMeansZero {c : WireContext} {e : RxEvent} {s t : State} (h : rxStep c e s = .next t) :
    OkMeansZero t := by
  rcases rxStep_cases h with ⟨r, _, h⟩ | ⟨_, rfl⟩ | ⟨_, rfl⟩
  · exact wire_okMeansZero (isCommand_decodeWire _ c r) h
  · exact okMeansZero_terminate (code := .timeout) nofun _
  · exact okMeansZero_terminate (code := .transportError) nofun _

@[simp] theorem txStep_decBusy (b : Byte) (answer : TxAnswer) (s : State) :
    (txStep b answer s).decBusy = s.decBusy := by
  cases answer with
  | ack => exact txAck_decBusy s b
  | fail => exact txFail_decBusy s

theorem turn_okMeansZero {a : Agent} {s t : State} (hb : s.decBusy = true) (h : turn a s = .next t) :
    OkMeansZero t := by
  rcases turn_cases h with
    rfl | ⟨_, _, ws, _, h⟩ | ⟨_, b, x, xs, _, _, rfl⟩ | ⟨_, _, _, es, _, _, h⟩ | ⟨_, rfl⟩
  · exact okMeansZero_of_busy hb
  · exact commandStep_okMeansZero (s := { s with ports.commands := ws }) hb h
  · exact okMeansZero_of_busy ((txStep_decBusy b x _).trans hb)
  · exact rxStep_okMeansZero h
  · exact fun _ hok => absurd hok nofun

/-- Settles O50: of all that a turn can do, only a checksum byte that folds to 0x00 ends a decode `Ok`. -/
theorem okDecodeHasZeroResidue : Obligations.OkDecodeHasZeroResidue := by
  intro s t h hb
  rcases step_cases h with ⟨_, rfl⟩ | ⟨_, as, _, h⟩
  · exact okMeansZero_of_busy hb
  · exact turn_okMeansZero (s := { s with ports.turns := as }) hb h

end Sys2Proof.Machine
end

section
/-! The bound on a decode (R189): under `DATA` every event an unfinished decode takes leaves fewer events to take. -/

namespace Sys2Proof.Machine

/-- How many logical bytes, at most, a decode in its phase still takes before it ends. -/
def State.fieldsLeft (s : State) : Nat :=
  match s.dPhase with
  | .idle => 0
  | .sync | .field .addrOrCmd => s.cfg.maxLen + 4
  | .field .cmd => s.cfg.maxLen + 3
  | .field .len => s.cfg.maxLen + 2
  | .field .data => s.pktLen.toNat - s.dIdx + 1
  | .field .crc => 1

/-- How many events, at most, a decode still takes before it ends: what is left of the scan, the marker among it
(R175), and two raw bytes for each logical byte, of which `FESC` may have come. -/
def State.eventsLeft (s : State) : Nat :=
  (if s.dPhase = .sync then s.cfg.syncLimit - s.dSyncCnt else 0) + 2 * s.fieldsLeft - s.dEsc.toNat

section
variable {s : State}

theorem fieldsLeft_sync (hp : s.dPhase = .sync) : s.fieldsLeft = s.cfg.maxLen + 4 := by
  simp only [State.fieldsLeft, hp]

theorem fieldsLeft_addrOrCmd (hp : s.dPhase = .field .addrOrCmd) : s.fieldsLeft = s.cfg.maxLen + 4 := by
  simp only [State.fieldsLeft, hp]

theorem fieldsLeft_cmd (hp : s.dPhase = .field .cmd) : s.fieldsLeft = s.cfg.maxLen + 3 := by
  simp only [State.fieldsLeft, hp]

theorem fieldsLeft_len (hp : s.dPhase = .field .len) : s.fieldsLeft = s.cfg.maxLen + 2 := by
  simp only [State.fieldsLeft, hp]

theorem fieldsLeft_data (hp : s.dPhase = .field .data) : s.fieldsLeft = s.pktLen.toNat - s.dIdx + 1 := by
  simp only [State.fieldsLeft, hp]

theorem fieldsLeft_crc (hp : s.dPhase = .field .crc) : s.fieldsLeft = 1 := by
  simp only [State.fieldsLeft, hp]

theorem fieldsLeft_pos (hp : s.dPhase ≠ .idle) : 0 < s.fieldsLeft := by
  unfold State.fieldsLeft
  split
  · contradiction
  all_goals exact Nat.succ_pos _

theorem eventsLeft_sync (hp : s.dPhase = .sync) :
    s.eventsLeft = s.cfg.syncLimit - s.dSyncCnt + 2 * (s.cfg.maxLen + 4) - s.dEsc.toNat := by
  rw [State.eventsLeft, if_pos hp, fieldsLeft_sync hp]

theorem eventsLeft_field {p : FieldPhase} (hp : s.dPhase = .field p) :
    s.eventsLeft = 2 * s.fieldsLeft - s.dEsc.toNat := by
  simp [State.eventsLeft, hp]

theorem two_mul_fieldsLeft_le : 2 * s.fieldsLeft ≤ s.eventsLeft + s.dEsc.toNat := by
  unfold State.eventsLeft
  omega

/-- A decode in progress has an event left to take. -/
theorem eventsLeft_pos (hp : s.dPhase ≠ .idle) : 0 < s.eventsLeft := by
  have hfields := fieldsLeft_pos hp
  have hesc := Bool.toNat_le s.dEsc
  have hevents := two_mul_fieldsLeft_le (s := s)
  omega

@[simp] theorem terminate_eventsLeft (code : DecOutcome) : (terminate code s).eventsLeft = 0 := by
  simp [State.eventsLeft, State.fieldsLeft]

end

/-- A logical byte ends the decode, or leaves a field phase with one logical byte less (R180 to R184). -/
theorem field_fieldsLeft {v : Byte} {s t : State} (hs : s.Inv) (h : field v s = .next t) :
    (∃ code u, t = terminate code u) ∨ (∃ p, t.dPhase = .field p) ∧ t.fieldsLeft + 1 ≤ s.fieldsLeft := by
  obtain ⟨_, _, _, _, _, _, hdata, _⟩ := inv_iff.1 hs
  obtain ⟨_, p, hp, hcases⟩ := field_cases h
  rcases hcases with
    ⟨code, _, rfl⟩ | ⟨rfl, _, rfl⟩ | ⟨rfl, rfl⟩ | ⟨rfl, rfl⟩ | ⟨rfl, hv, rfl⟩ | ⟨rfl, _, rfl⟩
  · exact .inl ⟨_, _, rfl⟩
  · exact .inr ⟨⟨.cmd, rfl⟩, (fieldsLeft_addrOrCmd hp).ge⟩
  · exact .inr ⟨⟨.len, rfl⟩, (Nat.le_succ _).trans (fieldsLeft_addrOrCmd hp).ge⟩
  · exact .inr ⟨⟨.len, rfl⟩, (fieldsLeft_cmd hp).ge⟩
  · rw [fieldsLeft_len hp]
    by_cases hzero : v = 0
    · refine .inr ⟨⟨.crc, if_pos hzero⟩, ?_⟩
      rw [fieldsLeft_crc (if_pos hzero)]
      exact Nat.le_add_left 2 _
    · refine .inr ⟨⟨.data, if_neg hzero⟩, ?_⟩
      rw [fieldsLeft_data (if_neg hzero)]
      exact Nat.add_le_add_right hv 2
  · have hbelow : s.dIdx < s.pktLen.toNat := hdata hp
    rw [fieldsLeft_data hp]
    by_cases hlast : s.dIdx + 1 = s.pktLen.toNat
    · refine .inr ⟨⟨.crc, if_pos hlast⟩, ?_⟩
      rw [fieldsLeft_crc (if_pos hlast)]
      omega
    · refine .inr ⟨⟨.data, if_neg hlast⟩, ?_⟩
      rw [fieldsLeft_data (if_neg hlast)]
      dsimp only [State.foldRx_pktLen]
      omega

theorem field_eventsLeft {v : Byte} {s t : State} (hs : s.Inv) (h : field v s = .next t) :
    t.eventsLeft + 2 ≤ 2 * s.fieldsLeft := by
  rcases field_fieldsLeft hs h with ⟨code, u, rfl⟩ | ⟨⟨p, hp⟩, hless⟩
  · obtain ⟨_, p, hp, _⟩ := field_cases h
    have hpos : 0 < s.fieldsLeft := fieldsLeft_pos (by simp [hp])
    rw [terminate_eventsLeft]
    omega
  · rw [eventsLeft_field hp]
    omega

/-- A legal state is legal with `D_ESC` cleared: no invariant asks for the flag (R42.4). -/
theorem inv_clear_esc {s : State} (hs : s.Inv) : State.Inv { s with dEsc := false } := by
  obtain ⟨hc, hexcl, hpkt, henc, hbusy, _, hdata, hcounters⟩ := inv_iff.1 hs
  exact inv_iff.2 ⟨hc, hexcl, hpkt, henc, hbusy, nofun, hdata, hcounters⟩

/-- Under `DATA` every byte taken leaves fewer events: a scanned byte one less of the scan, `FESC` one byte of the
pair, a logical byte two raw bytes of which one may have come before. -/
theorem wire_eventsLeft {i : Instr} {s t : State} (hs : s.Inv) (hmode : s.cfg.midframeFend = .data)
    (hi : i.isCommand = false) (h : exec i s = .next t) : t.eventsLeft < s.eventsLeft := by
  obtain ⟨_, _, _, _, hbusy, _, _, _, hscan, _⟩ := inv_iff.1 hs
  have hesc := Bool.toNat_le s.dEsc
  rcases wire_cases hi h with ⟨hb, hp, hsync⟩ | ⟨hb, ⟨p, hp⟩, hraw⟩ | ⟨v, u, hu, hfield⟩
  · have hbelow := hscan hp
    rcases hsync with rfl | ⟨_, rfl⟩ | rfl
    · rw [eventsLeft_sync hp, eventsLeft_field rfl, fieldsLeft_addrOrCmd rfl]
      dsimp only
      omega
    · rw [eventsLeft_sync hp, eventsLeft_sync (s := { s with dSyncCnt := s.dSyncCnt + 1 }) hp]
      dsimp only
      omega
    · rw [terminate_eventsLeft]
      exact eventsLeft_pos (hbusy.1 hb)
  · have hpos : 0 < s.fieldsLeft := fieldsLeft_pos (hbusy.1 hb)
    rcases hraw with ⟨he, rfl⟩ | ⟨hresync, _⟩ | rfl
    · have hsame : State.fieldsLeft { s with dEsc := true } = s.fieldsLeft := rfl
      rw [eventsLeft_field hp, eventsLeft_field (s := { s with dEsc := true }) hp, hsame, he, Bool.toNat_true,
        Bool.toNat_false]
      omega
    · exact absurd (hmode.symm.trans hresync) nofun
    · rw [terminate_eventsLeft]
      exact eventsLeft_pos (hbusy.1 hb)
  · have hless : t.eventsLeft + 2 ≤ 2 * s.fieldsLeft := by
      rcases hu with rfl | rfl
      · exact field_eventsLeft hs hfield
      · exact field_eventsLeft (s := { s with dEsc := false }) (inv_clear_esc hs) hfield
    have hevents := two_mul_fieldsLeft_le (s := s)
    omega

theorem rxStep_eventsLeft {c : WireContext} {e : RxEvent} {s t : State} (hs : s.Inv)
    (hmode : s.cfg.midframeFend = .data) (hc : s.wireContext = some c) (h : rxStep c e s = .next t) :
    t.eventsLeft < s.eventsLeft := by
  obtain ⟨_, _, _, _, hbusy, _⟩ := inv_iff.1 hs
  have hpos := eventsLeft_pos (hbusy.1 (wireContext_cases hc).1)
  rcases rxStep_cases h with ⟨r, _, h⟩ | ⟨_, rfl⟩ | ⟨_, rfl⟩
  · exact wire_eventsLeft hs hmode (isCommand_decodeWire _ c r) h
  · rwa [terminate_eventsLeft]
  · rwa [terminate_eventsLeft]

/-- As many events as are left at most end a decode (R45, R189). -/
theorem deliver_ends {s : State} {events : List RxEvent} (hs : s.Inv) (hmode : s.cfg.midframeFend = .data)
    (hlen : s.eventsLeft ≤ events.length) : ∃ u, deliver events s = some u ∧ u.decBusy = false := by
  induction events generalizing s with
  | nil =>
    obtain ⟨_, _, _, _, hbusy, _⟩ := inv_iff.1 hs
    refine ⟨s, rfl, Bool.eq_false_iff.2 fun hb => ?_⟩
    exact (eventsLeft_pos (hbusy.1 hb)).ne' (Nat.le_zero.1 hlen)
  | cons e es ih =>
    cases hb : s.decBusy with
    | false => exact ⟨s, deliver_of_none (wireContext_none hb) _, hb⟩
    | true =>
      obtain ⟨_, _, _, _, hbusy, _⟩ := inv_iff.1 hs
      have hc := wireContext_of_busy hb (hbusy.1 hb)
      obtain ⟨t, ht⟩ := rxStep_next e hc (cell_of_inv hs)
      have hless := rxStep_eventsLeft hs hmode hc ht
      rw [deliver_of_next hc ht]
      refine ih (rxStep_keeps_inv hs ht) (rxStep_keeps_cfg ht ▸ hmode) ?_
      rw [List.length_cons] at hlen
      omega

/-- Settles O52: `DEC_START` leaves a scan of `P_SYNC_LIMIT` bytes, and `P_MAX_LEN + 4` logical bytes. -/
theorem decodeEndsWithinBound : Obligations.DecodeEndsWithinBound := by
  intro s events hs hmode he hd hlen
  have hstart := (decStartBeginsScan.2 s).1 he hd
  obtain ⟨u, hu, hidle⟩ := deliver_ends (command_keeps_inv hs rfl hstart) hmode hlen
  exact ⟨_, u, hstart, hu, hidle⟩

end Sys2Proof.Machine
end

section
/-! The decoder reads back what the encoder makes of a packet (R188): the bytes of a frame are taken one after the
other, a stuffed byte as the logical byte it stands for. -/

namespace Sys2Proof.Machine

/-! ## Runs of bytes -/

/-- The bytes `bs`, delivered one after the other, lead from `s` to `t` (R45, R171). -/
def Takes (s : State) (bs : List Byte) (t : State) : Prop := deliver (bs.map .byte) s = some t

theorem Takes.nil (s : State) : Takes s [] s := rfl

theorem Takes.append {s t u : State} {xs ys : List Byte} (hxs : Takes s xs t) (hys : Takes t ys u) :
    Takes s (xs ++ ys) u := by
  rw [Takes, List.map_append, deliver_append, hxs, Option.bind_some, hys]

theorem Takes.single {s t : State} {c : WireContext} {b : Byte} (hc : s.wireContext = some c)
    (h : exec (decodeWire s.cfg.maxLen c b) s = .next t) : Takes s [b] t :=
  deliver_of_next (e := .byte b) hc h []

/-- After the end of a decode nothing is taken, so a run to a decode in progress has one all along. -/
theorem Takes.busy_of_append {s u : State} {xs ys : List Byte} (h : Takes s (xs ++ ys) u) (hb : u.decBusy = true) :
    ∃ t, Takes s xs t ∧ t.decBusy = true := by
  rw [Takes, List.map_append, deliver_append] at h
  obtain ⟨t, hxs, hys⟩ := Option.bind_eq_some_iff.1 h
  refine ⟨t, hxs, ?_⟩
  by_contra hidle
  have hend : t = u := by
    rw [deliver_of_none (wireContext_none (Bool.not_eq_true _ ▸ hidle))] at hys
    exact Option.some.inj hys
  exact hidle (hend ▸ hb)

/-- A run of which only the last byte ends the decode leaves it in progress after every earlier byte. -/
theorem Takes.busy_of_take {s u : State} {bs : List Byte} {last : Byte} {k : Nat} (h : Takes s bs u)
    (hb : u.decBusy = true) (hk : k < (bs ++ [last]).length) :
    ∃ t, Takes s ((bs ++ [last]).take k) t ∧ t.decBusy = true := by
  rw [List.length_append, List.length_singleton] at hk
  rw [List.take_append_of_le_length (Nat.le_of_lt_succ hk)]
  exact Takes.busy_of_append ((List.take_append_drop k bs).symm ▸ h) hb

/-! ## The scan (R175) -/

/-- Bytes that are not `FEND` are counted, while they are fewer than `P_SYNC_LIMIT`. -/
theorem takes_scan {s : State} {junk : List Byte} (hb : s.decBusy = true) (hp : s.dPhase = .sync)
    (hjunk : FEND ∉ junk) (hlimit : s.dSyncCnt + junk.length < s.cfg.syncLimit) :
    Takes s junk { s with dSyncCnt := s.dSyncCnt + junk.length } := by
  induction junk generalizing s with
  | nil => exact Takes.nil s
  | cons b bs ih =>
    obtain ⟨hne, hbs⟩ := List.ne_and_not_mem_of_not_mem_cons hjunk
    rw [List.length_cons] at hlimit
    have hclass : decodeWire s.cfg.maxLen .sync b = .syncOther b := if_neg hne.symm
    have hstep : exec (.syncOther b) s = .next { s with dSyncCnt := s.dSyncCnt + 1 } :=
      ((syncScansForMarker s hb hp).2 b hne.symm).1 (by omega)
    have hfirst : Takes s [b] { s with dSyncCnt := s.dSyncCnt + 1 } :=
      Takes.single (wireContext_sync hb hp) (hclass ▸ hstep)
    have hrest := ih (s := { s with dSyncCnt := s.dSyncCnt + 1 }) hb hp hbs (by dsimp only; omega)
    have hcount : s.dSyncCnt + (b :: bs).length = s.dSyncCnt + 1 + bs.length := by
      rw [List.length_cons]
      omega
    rw [hcount]
    exact hfirst.append hrest

/-- The decode `s` in `SYNC` after `skipped` bytes that are not `FEND`, and the start marker. -/
def State.withMarker (s : State) (skipped : Nat) : State :=
  { s with
    dSyncCnt := s.dSyncCnt + skipped + 1
    rxCrc := fold s.cfg s.rxCrc (crcLead s.cfg)
    dPhase := .field .addrOrCmd }

theorem takes_marker {s : State} {junk : List Byte} (hb : s.decBusy = true) (hp : s.dPhase = .sync)
    (hjunk : FEND ∉ junk) (hlimit : s.dSyncCnt + junk.length < s.cfg.syncLimit) :
    Takes s (junk ++ [FEND]) (s.withMarker junk.length) := by
  refine (takes_scan hb hp hjunk hlimit).append ?_
  have hctx : State.wireContext { s with dSyncCnt := s.dSyncCnt + junk.length } = some .sync := wireContext_sync hb hp
  exact Takes.single hctx (onByte_eq (inContext_of_wireContext hctx) rfl)

/-! ## Stuffed bytes (R74, R176) -/

/-- The last wire byte of a stuffed byte runs the logical byte it stands for; before it the decode goes on. -/
theorem stuff_runs_field {s : State} {p : FieldPhase} (b : Byte) (hb : s.decBusy = true)
    (hp : s.dPhase = .field p) (he : s.dEsc = false) :
    ∃ (before : List Byte) (last : Byte) (s' : State) (c : WireContext),
      stuff b = before ++ [last] ∧ Takes s before s' ∧ s'.decBusy = true ∧ s'.wireContext = some c ∧
      exec (decodeWire s'.cfg.maxLen c last) s' = field b s := by
  have hctx := wireContext_field hb hp he
  have hfesc : Takes s [FESC] { s with dEsc := true } :=
    Takes.single hctx (escapePrefixIsNotFolded s p hb hp he)
  have hesc : State.wireContext { s with dEsc := true } = some .escaped :=
    wireContext_escaped (p := p) hb hp rfl
  have hback : { s with dEsc := false } = s := by rw [← he]
  rcases stuff_cases b with ⟨rfl, hstuff⟩ | ⟨rfl, hstuff⟩ | ⟨⟨hfend, hnot⟩, hstuff⟩
  · refine ⟨[FESC], TFEND, _, .escaped, hstuff, hfesc, hb, hesc, ?_⟩
    exact (exec_escTfend (s := { s with dEsc := true }) hb hp rfl).trans (congrArg (field FEND) hback)
  · refine ⟨[FESC], TFESC, _, .escaped, hstuff, hfesc, hb, hesc, ?_⟩
    exact (exec_escTfesc (s := { s with dEsc := true }) hb hp rfl).trans (congrArg (field FESC) hback)
  · refine ⟨[], b, s, .field, hstuff, Takes.nil s, hb, hctx, ?_⟩
    have hclass : decodeWire s.cfg.maxLen .field b = .fieldLiteral b := (if_neg hnot).trans (if_neg hfend)
    rw [hclass, exec_fieldLiteral hb hp he hfend hnot]

/-- A stuffed byte does what the logical byte of its class does. -/
theorem takes_stuff {s t : State} {p : FieldPhase} {b : Byte} {i : Instr} (hb : s.decBusy = true)
    (hp : s.dPhase = .field p) (he : s.dEsc = false) (hi : decodeWire s.cfg.maxLen (.logical p) b = i)
    (h : exec i s = .next t) : Takes s (stuff b) t := by
  obtain ⟨before, last, s', c, hstuff, hbefore, _, hc, hlast⟩ := stuff_runs_field b hb hp he
  rw [hstuff]
  refine hbefore.append (Takes.single hc (hlast.trans ?_))
  rw [field_eq_exec hp, hi, h]

/-! ## The fields before the payload (R180 to R182) -/

/-- The logical bytes before the payload (R71). -/
def header (addr : BitVec 7) (cmd n : Byte) : List Byte := (if addr ≠ 0 then [addrByte addr] else []) ++ [cmd, n]

theorem logical_eq_header_append (addr : BitVec 7) (cmd n : Byte) (d : List Byte) :
    logical addr cmd n d = header addr cmd n ++ d := rfl

theorem le_addrByte (addr : BitVec 7) : 0x80 ≤ (addrByte addr).toNat := by
  revert addr; decide

theorem addrByte_sub_flag (addr : BitVec 7) : BitVec.ofNat 7 ((addrByte addr).toNat - 0x80) = addr := by
  revert addr; decide

/-- The decode `s` after the header: the fields are decoded, and the payload is next, if there is any. -/
def State.withHeader (s : State) (addr : BitVec 7) (cmd n : Byte) : State :=
  { s with
    rxCrc := fold s.cfg s.rxCrc (header addr cmd n)
    pktAddr := addr
    pktCmd := cmd
    pktLen := n
    dIdx := 0
    dPhase := if n = 0 then .field .crc else .field .data }

section
variable {s : State} (hb : s.decBusy = true) (he : s.dEsc = false)
include hb he

theorem takes_addrByte (addr : BitVec 7) (hp : s.dPhase = .field .addrOrCmd) :
    Takes s (stuff (addrByte addr))
      { s with rxCrc := upd s.cfg s.rxCrc (addrByte addr), pktAddr := addr, dPhase := .field .cmd } := by
  have hrun := (addressOrCommandByte s (addrByte addr) hb hp).1 (le_addrByte addr)
  rw [addrByte_sub_flag] at hrun
  exact takes_stuff hb hp he (decodeWire_addrOrCmd_of_le (le_addrByte addr)) hrun

theorem takes_bcastCmd {cmd : Byte} (hp : s.dPhase = .field .addrOrCmd) (hcmd : cmd.toNat < 0x80) :
    Takes s (stuff cmd)
      { s with rxCrc := upd s.cfg s.rxCrc cmd, pktAddr := 0, pktCmd := cmd, dPhase := .field .len } :=
  takes_stuff hb hp he (decodeWire_addrOrCmd_of_lt hcmd) ((addressOrCommandByte s cmd hb hp).2 hcmd)

theorem takes_cmd {cmd : Byte} (hp : s.dPhase = .field .cmd) (hcmd : cmd.toNat < 0x80) :
    Takes s (stuff cmd) { s with rxCrc := upd s.cfg s.rxCrc cmd, pktCmd := cmd, dPhase := .field .len } :=
  takes_stuff hb hp he (decodeWire_cmd_of_lt hcmd) ((commandByteAfterAddress s cmd hb hp).1 hcmd)

theorem takes_len {n : Byte} (hp : s.dPhase = .field .len) (hn : n.toNat ≤ s.cfg.maxLen) :
    Takes s (stuff n)
      { s with
        rxCrc := upd s.cfg s.rxCrc n, pktLen := n, dIdx := 0
        dPhase := if n = 0 then .field .crc else .field .data } :=
  takes_stuff hb hp he (decodeWire_len_of_le hn) ((lengthByte s n hb hp).1 hn)

theorem takes_header {addr : BitVec 7} {cmd n : Byte} (hp : s.dPhase = .field .addrOrCmd)
    (hcmd : cmd.toNat < 0x80) (hn : n.toNat ≤ s.cfg.maxLen) :
    Takes s (stuffAll (header addr cmd n)) (s.withHeader addr cmd n) := by
  by_cases haddr : addr = 0
  · subst haddr
    refine Takes.append (takes_bcastCmd hb he hp hcmd) (Takes.append (takes_len ?_ ?_ ?_ ?_) (Takes.nil _))
    exacts [hb, he, rfl, hn]
  · have hheader : header addr cmd n = [addrByte addr, cmd, n] := congrArg (· ++ [cmd, n]) (if_pos haddr)
    rw [State.withHeader, hheader]
    refine Takes.append (takes_addrByte hb he addr hp)
      (Takes.append (takes_cmd ?_ ?_ ?_ hcmd) (Takes.append (takes_len ?_ ?_ ?_ ?_) (Takes.nil _)))
    exacts [hb, he, rfl, hb, he, rfl, hn]

end

/-! ## The payload (R183) -/

/-- The decode `s` after `k` bytes of the payload `d`. -/
def State.withPayload (s : State) (d : List Byte) (k : Nat) : State :=
  { s with
    rxCrc := fold s.cfg s.rxCrc (d.take k)
    pktData := s.pktData.fill (d.getD · 0) 0 k
    dIdx := k
    dPhase := if k = d.length then .field .crc else .field .data }

/-- `fill` from a list puts the list into the cells. -/
theorem payload_fill {m : Memory} (hwf : m.wf = true) (d : List Byte) :
    (m.fill (d.getD · 0) 0 d.length).payload d.length = d := by
  refine List.ext_getElem (length_payload _ _) fun i hi hd => ?_
  simp [Memory.payload, Memory.read_fill _ _ _ _ _ hwf, hd]

theorem withPayload_zero {s : State} {d : List Byte} (hidx : s.dIdx = 0)
    (hp : s.dPhase = if 0 = d.length then .field .crc else .field .data) : s.withPayload d 0 = s := by
  have hstart : s.withPayload d 0 =
      { s with dIdx := 0, dPhase := if 0 = d.length then .field .crc else .field .data } := rfl
  rw [hstart, ← hp, ← hidx]

theorem exec_logData_withPayload {s : State} {d : List Byte} {k : Nat} (hb : s.decBusy = true)
    (hlen : s.pktLen.toNat = d.length) (hcap : d.length ≤ s.cfg.payloadCap) (hk : k < d.length) :
    exec (.logData d[k]) (s.withPayload d k) = .next (s.withPayload d (k + 1)) := by
  have hcrc : fold s.cfg s.rxCrc (d.take (k + 1)) = upd s.cfg (fold s.cfg s.rxCrc (d.take k)) d[k] := by
    rw [← List.take_append_getElem hk, fold_append]
    rfl
  have hcells : s.pktData.fill (d.getD · 0) 0 (k + 1) = (s.pktData.fill (d.getD · 0) 0 k).write k d[k] := by
    simp [Memory.fill, hk]
  rw [exec_logData (s := s.withPayload d k) d[k] hb (if_neg hk.ne) (hk.trans_le hcap)]
  simp only [State.withPayload, State.foldRx, hcrc, hcells, hlen]

theorem takes_payload {s : State} {d : List Byte} {k : Nat} (hb : s.decBusy = true) (he : s.dEsc = false)
    (hidx : s.dIdx = 0) (hlen : s.pktLen.toNat = d.length) (hcap : d.length ≤ s.cfg.payloadCap)
    (hp : s.dPhase = if 0 = d.length then .field .crc else .field .data) (hk : k ≤ d.length) :
    Takes s (stuffAll (d.take k)) (s.withPayload d k) := by
  induction k with
  | zero =>
    rw [withPayload_zero hidx hp]
    exact Takes.nil s
  | succ k ih =>
    have hlast : stuffAll (d.take (k + 1)) = stuffAll (d.take k) ++ stuff d[k] := by
      rw [← List.take_append_getElem hk, stuffAll_append, stuffAll_cons, stuffAll_nil, List.append_nil]
    rw [hlast]
    have hdata : (s.withPayload d k).dPhase = .field .data := if_neg (Nat.ne_of_lt hk)
    exact (ih (Nat.le_of_succ_le hk)).append
      (takes_stuff hb hdata he rfl (exec_logData_withPayload hb hlen hcap hk))

/-! ## A frame -/

/-- The decode `s` in `SYNC` after `skipped` bytes that are not `FEND`, and after a frame but for its checksum
byte. -/
def State.beforeChecksum (s : State) (skipped : Nat) (addr : BitVec 7) (cmd n : Byte) (d : List Byte) : State :=
  ((s.withMarker skipped).withHeader addr cmd n).withPayload d d.length

/-- Before the checksum byte the accumulator is that byte (R141). -/
theorem beforeChecksum_rxCrc {s : State} {addr : BitVec 7} {cmd n : Byte} {d : List Byte} (skipped : Nat)
    (hseed : s.rxCrc = s.cfg.seed) :
    (s.beforeChecksum skipped addr cmd n d).rxCrc = frameCrc s.cfg addr cmd n d := by
  simp only [State.beforeChecksum, State.withPayload, State.withHeader, State.withMarker, frameCrc, crcResult, hseed,
    logical_eq_header_append, fold_append, List.take_length]

section
variable {s : State} {addr : BitVec 7} {cmd n : Byte} {d : List Byte} (hc : s.cfg.Valid) (hb : s.decBusy = true)
  (hn : n.toNat = d.length)
include hc hb hn

theorem takes_beforeChecksum {junk : List Byte} (hp : s.dPhase = .sync) (he : s.dEsc = false)
    (hcmd : cmd.toNat ≤ 0x7F) (hlen : d.length ≤ s.cfg.maxLen) (hjunk : FEND ∉ junk)
    (hlimit : s.dSyncCnt + junk.length < s.cfg.syncLimit) :
    Takes s (junk ++ [FEND] ++ stuffAll (logical addr cmd n d)) (s.beforeChecksum junk.length addr cmd n d) := by
  obtain ⟨_, _, _, hcap, _⟩ := hc
  have hempty : n = 0 ↔ 0 = d.length := by
    rw [← BitVec.toNat_inj, hn]
    exact eq_comm
  have hheader := takes_header (s := s.withMarker junk.length) (addr := addr) hb he rfl (Nat.lt_succ_of_le hcmd)
    (hn.trans_le hlen)
  have hpayload := takes_payload (s := (s.withMarker junk.length).withHeader addr cmd n) hb he rfl hn
    (hlen.trans hcap.le) (by simp only [State.withHeader, hempty]) le_rfl
  rw [List.take_length] at hpayload
  rw [logical_eq_header_append, stuffAll_append]
  exact (takes_marker hb hp hjunk hlimit).append (hheader.append hpayload)

/-- The checksum byte ends the decode `Ok` (R104), and the packet is the encoded one. -/
theorem field_checksum (skipped : Nat) (hwf : s.pktData.wf = true) (hseed : s.rxCrc = s.cfg.seed) :
    ∃ u, field (frameCrc s.cfg addr cmd n d) (s.beforeChecksum skipped addr cmd n d) = .next u ∧
      DecodeEnded (s.beforeChecksum skipped addr cmd n d) u .ok 0x00 ∧
      u.pktAddr = addr ∧ u.pktCmd = cmd ∧ u.pktLen.toNat = d.length ∧ u.pktData.payload d.length = d := by
  have hp : (s.beforeChecksum skipped addr cmd n d).dPhase = .field .crc := if_pos rfl
  have hzero : T s.cfg ((s.beforeChecksum skipped addr cmd n d).rxCrc ^^^ frameCrc s.cfg addr cmd n d) = 0 := by
    rw [beforeChecksum_rxCrc skipped hseed]
    exact (upd_self s.cfg _).trans (T_zero hc)
  obtain ⟨u, hu, hended, haddr, hcmd, hlen, hcells⟩ :=
    (checksumByteDecides (s.beforeChecksum skipped addr cmd n d) _ (Memory.wf_fill _ _ _ _ hwf) hb hp).1 hzero
  have hpayload : u.pktData.payload d.length = (s.pktData.fill (d.getD · 0) 0 d.length).payload d.length :=
    List.map_congr_left fun i hi => hcells i (hn.symm ▸ List.mem_range.1 hi)
  exact ⟨u, (field_eq_exec hp _).trans hu, hended, haddr, hcmd, (congrArg BitVec.toNat hlen).trans hn,
    hpayload.trans (payload_fill hwf d)⟩

/-- The bytes of a scan and of a frame are taken up to the checksum byte, whose last wire byte ends the decode; no
earlier one does. -/
theorem takes_frame {junk : List Byte} (hp : s.dPhase = .sync) (he : s.dEsc = false) (hwf : s.pktData.wf = true)
    (hseed : s.rxCrc = s.cfg.seed) (hcmd : cmd.toNat ≤ 0x7F) (hlen : d.length ≤ s.cfg.maxLen) (hjunk : FEND ∉ junk)
    (hlimit : s.dSyncCnt + junk.length < s.cfg.syncLimit) :
    let bytes := junk ++ (encodeFrame s.cfg addr cmd n d).1
    ∃ u, Takes s bytes u ∧ DecodeEnded (s.beforeChecksum junk.length addr cmd n d) u .ok 0x00 ∧
      u.pktAddr = addr ∧ u.pktCmd = cmd ∧ u.pktLen.toNat = d.length ∧ u.pktData.payload d.length = d ∧
      ∀ k, k < bytes.length → ∃ v, Takes s (bytes.take k) v ∧ v.decBusy = true := by
  intro bytes
  obtain ⟨before, last, q, c, hstuff, hbefore, hbusy, hctx, hlast⟩ :=
    stuff_runs_field (s := s.beforeChecksum junk.length addr cmd n d) (frameCrc s.cfg addr cmd n d) hb (if_pos rfl) he
  have hbytes : bytes = junk ++ [FEND] ++ stuffAll (logical addr cmd n d) ++ before ++ [last] := by
    simp only [bytes, encodeFrame_fst, stuffAll_append, stuffAll_cons, stuffAll_nil, List.append_nil, hstuff,
      List.append_assoc, List.cons_append, List.nil_append]
  have hfields := (takes_beforeChecksum hc hb hn hp he hcmd hlen hjunk hlimit).append hbefore
  obtain ⟨u, hu, hended, haddr, hcommand, hlength, hpayload⟩ := field_checksum hc hb hn junk.length hwf hseed
  refine ⟨u, ?_, hended, haddr, hcommand, hlength, hpayload, fun k hk => ?_⟩
  · rw [hbytes]
    exact hfields.append (Takes.single hctx (hlast.trans hu))
  · rw [hbytes] at hk ⊢
    exact hfields.busy_of_take hbusy hk

end

/-- The state `DEC_START` leaves (R170). -/
def State.scanStarted (s : State) : State :=
  State.replied
    { s with rxCrc := s.cfg.seed, dPhase := .sync, dEsc := false, dSyncCnt := 0, dIdx := 0, decBusy := true } .ok 0x00

/-- Settles O51: the frame is delivered to the scan that `DEC_START` starts. -/
theorem encodedFrameDecodesBack : Obligations.EncodedFrameDecodesBack := by
  intro s addr cmd d junk hc hwf he hd hcmd hlen hjunk hlimit w events
  have hn : (BitVec.ofNat 8 d.length).toNat = d.length := by
    obtain ⟨_, _, _, hcap, hcells⟩ := hc
    rw [BitVec.toNat_ofNat, Nat.mod_eq_of_lt (by omega)]
  have hcount : 0 + junk.length + 1 = junk.length + 1 := by rw [Nat.zero_add]
  obtain ⟨u, hu, ⟨hidle, hphase, hesc, hok, hcrc, hcnt, hrest⟩, haddr, hcommand, hlength, hpayload, hbusy⟩ :=
    takes_frame (s := s.scanStarted) (addr := addr) hc rfl hn rfl rfl hwf rfl hcmd hlen hjunk
      ((Nat.zero_add junk.length).trans_lt hlimit)
  refine ⟨s.scanStarted, u, (decStartBeginsScan.2 s).1 he hd, hu,
    ⟨hidle, hphase, hesc, hok, hcrc, hcnt.trans hcount, hrest⟩, haddr, hcommand, hlength, hpayload, fun k hk => ?_⟩
  obtain ⟨v, hv, hvbusy⟩ := hbusy k (by rwa [List.length_map] at hk)
  exact ⟨v, by rwa [← List.map_take], hvbusy⟩

end Sys2Proof.Machine
end

section
/-! `NOP` and the status and diagnostic reads (R220 to R225): each answers one value, and the reads of an operation's
results check that this operation is not in progress. -/

namespace Sys2Proof.Machine

/-! ## The answers -/

/-- The status byte has `DEC_BUSY` in bit 1 and `ENC_BUSY` in bit 0 (R221). -/
theorem status_eq_ofNat (s : State) :
    s.status = BitVec.ofNat 8 ((if s.decBusy then 2 else 0) + (if s.encBusy then 1 else 0)) := by
  rw [State.status]
  cases s.decBusy <;> cases s.encBusy <;> rfl

theorem status_eq_three_iff (s : State) : s.status = 0x03 ↔ s.encBusy = true ∧ s.decBusy = true := by
  rw [State.status]
  cases s.decBusy <;> cases s.encBusy <;> decide

theorem answer_of_eq (s : State) {data value : Byte} (h : data = value) :
    s.answer data = .next (s.replied .ok value) := by
  rw [h]
  rfl

/-! ## The commands -/

/-- Settles O53: neither command has a check, and 0x03 needs both operations in progress (R42.1). -/
theorem nopAndStatusAlwaysAnswer : Obligations.NopAndStatusAlwaysAnswer := by
  refine ⟨rowNoOperand fun _ _ => rfl, rowNoOperand fun _ _ => rfl, fun s =>
    ⟨rfl, answer_of_eq s (status_eq_ofNat s), fun ⟨hboth, _⟩ hstatus => hboth ?_⟩⟩
  exact (status_eq_three_iff s).1 ((status_eq_ofNat s).trans hstatus)

/-- Settles O54: each read checks its own operation, and answers its outcome's number (R263, R264). -/
theorem outcomeReadsReturnOutcome : Obligations.OutcomeReadsReturnOutcome := by
  refine ⟨rowNoOperand fun _ _ => rfl, rowNoOperand fun _ _ => rfl, fun s =>
    ⟨fun he => (unlessBusy_of_idle he).trans (answer_of_eq s ?_), unlessBusy_of_busy,
      fun hd => (unlessBusy_of_idle hd).trans (answer_of_eq s ?_), unlessBusy_of_busy⟩⟩
  · cases s.encOutcome <;> rfl
  · cases s.decOutcome <;> rfl

/-- Settles O55: each read checks its own operation, and answers its register. -/
theorem crcReadsReturnChecksums : Obligations.CrcReadsReturnChecksums :=
  ⟨rowNoOperand fun _ _ => rfl, rowNoOperand fun _ _ => rfl, fun _ =>
    ⟨unlessBusy_of_idle, unlessBusy_of_busy, unlessBusy_of_idle, unlessBusy_of_busy⟩⟩

end Sys2Proof.Machine
end

section
/-! The host procedure `Request` (R240 to R243). Its sending half leaves the receiver alone and ends the encode; its
receiving half leaves the encoder alone, ends the decode, and then only reads. -/

namespace Sys2Proof.Machine

/-! ## One command of the host -/

theorem isCommand_of_encode {i : Instr} {w : CmdWord} (h : encode i = .command w) : i.isCommand = true := by
  simp only [Instr.isCommand, h]

theorem commandStep_encode {i : Instr} {w : CmdWord} (h : encode i = .command w) (s : State) :
    commandStep w s = exec i s := by
  have hd := decode_encode_of_isCommand 0 (isCommand_of_encode h)
  rw [h] at hd
  exact commandStep_of_ok hd s

/-- What the host issues is a command, and it runs. -/
theorem exec_of_issue {i : Instr} {s t : State} {r : Response} (h : issue i s = some (r, t)) :
    i.isCommand = true ∧ exec i s = .next t := by
  unfold issue at h
  split at h
  case h_1 w hw =>
    refine ⟨isCommand_of_encode hw, ?_⟩
    rw [commandStep_encode hw] at h
    split at h
    case h_1 u hu =>
      obtain ⟨_, _, he⟩ := Option.map_eq_some_iff.1 h
      cases he
      exact hu
    all_goals cases h
  · cases h

/-- A read that is performed gives the host what it answers. -/
theorem issue_of_answer {i : Instr} {w : CmdWord} {s : State} {data : Byte} (hw : encode i = .command w)
    (h : exec i s = s.answer data) : issue i s = some (⟨.ok, data⟩, s.replied .ok data) := by
  rw [← commandStep_encode hw] at h
  simp [issue, hw, h, State.answer, State.respond]

theorem issue_statusRead (s : State) :
    issue .statusRead s = some (⟨.ok, s.status⟩, s.replied .ok s.status) :=
  issue_of_answer rfl rfl

theorem encOutcome_eq_ok_of_number {o : EncOutcome} (h : o.number.zeroExtend 8 = 0) : o = .ok := by
  revert h; cases o <;> decide

theorem decOutcome_eq_ok_of_number {o : DecOutcome} (h : o.number.zeroExtend 8 = 0) : o = .ok := by
  revert h; cases o <;> decide

/-! ## What commands and turns leave alone -/

/-- The decoder's registers, and the events the transport holds for it, are the same. -/
abbrev SameReceiver (s t : State) : Prop := t.ports.events = s.ports.events ∧ SameDecoder s t

theorem SameReceiver.refl (s : State) : SameReceiver s s := ⟨rfl, rfl, rfl, rfl, rfl, rfl, rfl, rfl⟩

theorem SameReceiver.trans {s t u : State} (hst : SameReceiver s t) (htu : SameReceiver t u) : SameReceiver s u := by
  simp_all only [SameReceiver, SameDecoder, and_self]

theorem SameEncoder.refl (s : State) : SameEncoder s s := ⟨rfl, rfl, rfl, rfl, rfl⟩

theorem SameEncoder.trans {s t u : State} (hst : SameEncoder s t) (htu : SameEncoder t u) : SameEncoder s u := by
  simp_all only [SameEncoder, and_self]

/-- `t` is `s` but for the responses given (R56). -/
abbrev OnlyResponds (s t : State) : Prop := ∃ rs, t = { s with ports.responses := rs }

theorem OnlyResponds.trans {s t u : State} (hst : OnlyResponds s t) (htu : OnlyResponds t u) : OnlyResponds s u := by
  obtain ⟨_, rfl⟩ := hst
  obtain ⟨rs, rfl⟩ := htu
  exact ⟨rs, rfl⟩

theorem issue_read_onlyResponds {i : Instr} {s t : State} {r : Response} (hread : readCommand i = true)
    (h : issue i s = some (r, t)) : OnlyResponds s t := by
  obtain ⟨hi, hexec⟩ := exec_of_issue h
  obtain ⟨_, _, _, _, hframe⟩ := command_respondsOnce hi hexec
  exact ⟨_, hframe (.inr hread)⟩

/-- `DEC_START` is the one command that writes a register of the decoder, and none takes an event. -/
theorem issue_sameReceiver {i : Instr} {s t : State} {r : Response} (hne : i ≠ .decStart)
    (h : issue i s = some (r, t)) : SameReceiver s t := by
  obtain ⟨hi, hexec⟩ := exec_of_issue h
  rcases command_cases hi hexec with ⟨_, _, _, rfl⟩ | ⟨_, _, _, rfl⟩ | ⟨_, _, u, rfl, hu⟩
  · exact .refl s
  · exact .refl s
  · rcases hu with ⟨_, _, rfl⟩ | ⟨_, _, rfl⟩ | ⟨_, _, _, rfl⟩ | ⟨_, _, _, _, rfl⟩ | ⟨_, _, rfl⟩ | ⟨hdec, _⟩
    iterate 5 exact .refl s
    exact absurd hdec hne

/-- `ENC_START` is the one command that writes a register of the encoder. -/
theorem issue_sameEncoder {i : Instr} {s t : State} {r : Response} (hne : i ≠ .encStart)
    (h : issue i s = some (r, t)) : SameEncoder s t := by
  obtain ⟨hi, hexec⟩ := exec_of_issue h
  rcases command_cases hi hexec with ⟨_, _, _, rfl⟩ | ⟨_, _, _, rfl⟩ | ⟨_, _, u, rfl, hu⟩
  · exact .refl s
  · exact .refl s
  · rcases hu with ⟨_, _, rfl⟩ | ⟨_, _, rfl⟩ | ⟨_, _, _, rfl⟩ | ⟨_, _, _, _, rfl⟩ | ⟨henc, _⟩ | ⟨_, rfl⟩
    iterate 4 exact .refl s
    · exact absurd henc hne
    · exact .refl s

/-- After an encode, its outcome is read as 0 only if it is `Ok` (R222, R264). -/
theorem issue_encOutcomeRead_of_idle {s t : State} {r : Response} (hb : s.encBusy = false)
    (h : issue .encOutcomeRead s = some (r, t)) :
    t.encBusy = false ∧ SameReceiver s t ∧ (r.data = 0 → t.encOutcome = .ok) := by
  rw [issue_of_answer (i := .encOutcomeRead) rfl (unlessBusy_of_idle hb)] at h
  cases h
  exact ⟨hb, .refl s, encOutcome_eq_ok_of_number⟩

/-- After a decode, its outcome is read as 0 only if it is `Ok` (R223, R263). -/
theorem issue_decOutcomeRead_of_idle {s t : State} {r : Response} (hb : s.decBusy = false)
    (h : issue .decOutcomeRead s = some (r, t)) :
    t.decBusy = false ∧ SameEncoder s t ∧ (r.data = 0 → t.decOutcome = .ok) := by
  rw [issue_of_answer (i := .decOutcomeRead) rfl (unlessBusy_of_idle hb)] at h
  cases h
  exact ⟨hb, .refl s, decOutcome_eq_ok_of_number⟩

theorem afterTurn_eq_some {r : Result} {t : State} : afterTurn r = some t ↔ r = .next t := by
  cases r <;> simp [afterTurn]

theorem encoderTurn_sameReceiver {s t : State} (h : encoderTurn s = .next t) : SameReceiver s t := by
  rcases turn_cases (a := .encoder) h with
    rfl | ⟨hagent, _⟩ | ⟨_, b, x, _, _, _, rfl⟩ | ⟨hagent, _⟩ | ⟨hagent, _⟩
  · exact .refl _
  · cases hagent
  · cases x <;> simp [txStep, SameReceiver, SameDecoder]
  · cases hagent
  · cases hagent

theorem decoderTurn_sameEncoder {s t : State} (h : decoderTurn s = .next t) : SameEncoder s t := by
  rcases turn_cases (a := .decoder) h with
    rfl | ⟨hagent, _⟩ | ⟨hagent, _⟩ | ⟨_, _, _, _, _, _, hrx⟩ | ⟨hagent, _⟩
  · exact .refl _
  · cases hagent
  · cases hagent
  · exact (rxStep_keeps_crcAcc_and_encoder hrx).2
  · cases hagent

/-! ## The waits (R85) -/

theorem status_bit_zero (s : State) : s.status[0] = s.encBusy := by
  rw [State.status]
  cases s.decBusy <;> cases s.encBusy <;> rfl

theorem status_bit_one (s : State) : s.status[1] = s.decBusy := by
  rw [State.status]
  cases s.decBusy <;> cases s.encBusy <;> rfl

/-- A poll sees `ENC_BUSY`; while it is 1 the encoder has a turn and the wait goes on. -/
theorem waitEnc_succ (polls : Nat) (s : State) :
    waitEnc (polls + 1) s =
      if s.encBusy then (afterTurn (encoderTurn (s.replied .ok s.status))).bind (waitEnc polls)
      else some (s.replied .ok s.status) := by
  simp [waitEnc, issue_statusRead, status_bit_zero]

/-- A poll sees `DEC_BUSY`; while it is 1 the decoder has a turn and the wait goes on. -/
theorem waitDec_succ (polls : Nat) (s : State) :
    waitDec (polls + 1) s =
      if s.decBusy then (afterTurn (decoderTurn (s.replied .ok s.status))).bind (waitDec polls)
      else some (s.replied .ok s.status) := by
  simp [waitDec, issue_statusRead, status_bit_one]

theorem waitEnc_ends {polls : Nat} {s t : State} (h : waitEnc polls s = some t) :
    t.encBusy = false ∧ SameReceiver s t := by
  induction polls generalizing s with
  | zero => cases h
  | succ polls ih =>
    rw [waitEnc_succ] at h
    split at h
    case isTrue =>
      obtain ⟨u, hu, hwait⟩ := Option.bind_eq_some_iff.1 h
      obtain ⟨hidle, hsame⟩ := ih hwait
      exact ⟨hidle, (encoderTurn_sameReceiver (afterTurn_eq_some.1 hu)).trans hsame⟩
    case isFalse hb =>
      cases h
      exact ⟨Bool.eq_false_of_not_eq_true hb, .refl s⟩

theorem waitDec_ends {polls : Nat} {s t : State} (h : waitDec polls s = some t) :
    t.decBusy = false ∧ SameEncoder s t := by
  induction polls generalizing s with
  | zero => cases h
  | succ polls ih =>
    rw [waitDec_succ] at h
    split at h
    case isTrue =>
      obtain ⟨u, hu, hwait⟩ := Option.bind_eq_some_iff.1 h
      obtain ⟨hidle, hsame⟩ := ih hwait
      exact ⟨hidle, (decoderTurn_sameEncoder (afterTurn_eq_some.1 hu)).trans hsame⟩
    case isFalse hb =>
      cases h
      exact ⟨Bool.eq_false_of_not_eq_true hb, .refl s⟩

/-! ## The sending half (steps 1 to 4 of R240) -/

theorem issueAll_sameReceiver {is : List Instr} {s t : State} {loaded : Bool} (hne : .decStart ∉ is)
    (h : issueAll is s = some (loaded, t)) : SameReceiver s t := by
  induction is generalizing s with
  | nil =>
    cases h
    exact .refl _
  | cons i is ih =>
    obtain ⟨hhead, htail⟩ := List.ne_and_not_mem_of_not_mem_cons hne
    obtain ⟨⟨r, u⟩, hissue, hrest⟩ := Option.bind_eq_some_iff.1 h
    have hsame := issue_sameReceiver hhead.symm hissue
    dsimp only at hrest
    split at hrest
    · exact hsame.trans (ih htail hrest)
    · cases hrest
      exact hsame

theorem decStart_notMem_pktLoad (addr cmd : Byte) (d : List Byte) : .decStart ∉ pktLoad addr cmd d := by
  simp [pktLoad]

theorem send_ends {polls : Nat} {s t : State} (h : send polls s = some t) :
    t.encBusy = false ∧ SameReceiver s t := by
  obtain ⟨⟨r, u⟩, hissue, hwait⟩ := Option.bind_eq_some_iff.1 h
  obtain ⟨hidle, hsame⟩ := waitEnc_ends hwait
  exact ⟨hidle, (issue_sameReceiver (by decide) hissue).trans hsame⟩

/-! ## The receiving half (steps 5 to 9 of R240) -/

theorem recv_ends {polls : Nat} {s t : State} (h : recv polls s = some t) :
    t.decBusy = false ∧ SameEncoder s t := by
  obtain ⟨⟨r, u⟩, hissue, hwait⟩ := Option.bind_eq_some_iff.1 h
  obtain ⟨hidle, hsame⟩ := waitDec_ends hwait
  exact ⟨hidle, (issue_sameEncoder (by decide) hissue).trans hsame⟩

theorem readCells_onlyResponds {cells : List Nat} {s t : State} {d : List Byte}
    (h : readCells cells s = some (d, t)) : OnlyResponds s t := by
  induction cells generalizing s d with
  | nil =>
    cases h
    exact ⟨_, rfl⟩
  | cons i cells ih =>
    obtain ⟨⟨r, u⟩, hissue, h⟩ := Option.bind_eq_some_iff.1 h
    obtain ⟨⟨rest, v⟩, hcells, h⟩ := Option.bind_eq_some_iff.1 h
    cases h
    exact (issue_read_onlyResponds rfl hissue).trans (ih hcells)

theorem copyOut_onlyResponds {s t : State} {q : HostPacket} (h : copyOut s = some (q, t)) : OnlyResponds s t := by
  obtain ⟨⟨a, s1⟩, haddr, h⟩ := Option.bind_eq_some_iff.1 h
  obtain ⟨⟨c, s2⟩, hcmd, h⟩ := Option.bind_eq_some_iff.1 h
  obtain ⟨⟨n, s3⟩, hlen, h⟩ := Option.bind_eq_some_iff.1 h
  obtain ⟨⟨d, s4⟩, hcells, h⟩ := Option.bind_eq_some_iff.1 h
  cases h
  exact (((issue_read_onlyResponds rfl haddr).trans (issue_read_onlyResponds rfl hcmd)).trans
    (issue_read_onlyResponds rfl hlen)).trans (readCells_onlyResponds hcells)

/-- A reply that is copied out was decoded `Ok`. -/
theorem requestReply_true {polls : Nat} {p q : HostPacket} {s t : State}
    (h : requestReply polls p s = some (true, q, t)) :
    SameEncoder s t ∧ t.decBusy = false ∧ t.decOutcome = .ok := by
  obtain ⟨u, hrecv, h⟩ := Option.bind_eq_some_iff.1 h
  obtain ⟨hended, hrecvSame⟩ := recv_ends hrecv
  obtain ⟨⟨r, v⟩, hread, h⟩ := Option.bind_eq_some_iff.1 h
  obtain ⟨hidle, hreadSame, hok⟩ := issue_decOutcomeRead_of_idle hended hread
  dsimp only at h
  split at h
  case isTrue hzero =>
    obtain ⟨⟨q', w⟩, hcopy, h⟩ := Option.bind_eq_some_iff.1 h
    cases h
    obtain ⟨_, rfl⟩ := copyOut_onlyResponds hcopy
    exact ⟨hrecvSame.trans hreadSame, hidle, hok hzero⟩
  case isFalse => cases h

/-! ## `Request` -/

/-- How a `Request` ends: with false and nothing received, or after an encode that ended `Ok`, and then at once for
address 0 and with a reply for any other. -/
theorem request_cases {polls : Nat} {p q : HostPacket} {s t : State} {result : Bool}
    (h : request polls p s = some (result, q, t)) :
    (result = false ∧ q = p ∧ SameReceiver s t) ∨
    ∃ u, u.encBusy = false ∧ u.encOutcome = .ok ∧ SameReceiver s u ∧
      ((p.addr = 0 ∧ q = p ∧ t = u) ∨ (p.addr ≠ 0 ∧ requestReply polls p u = some (result, q, t))) := by
  unfold request at h
  split at h
  · cases h
    exact .inl ⟨rfl, rfl, .refl _⟩
  obtain ⟨⟨loaded, s1⟩, hload, h⟩ := Option.bind_eq_some_iff.1 h
  have hloaded := issueAll_sameReceiver (decStart_notMem_pktLoad _ _ _) hload
  cases loaded with
  | false =>
    cases h
    exact .inl ⟨rfl, rfl, hloaded⟩
  | true =>
    obtain ⟨s2, hsend, h⟩ := Option.bind_eq_some_iff.1 h
    obtain ⟨hended, hsent⟩ := send_ends hsend
    obtain ⟨⟨e, s3⟩, hread, h⟩ := Option.bind_eq_some_iff.1 h
    obtain ⟨hidle, hreadSame, hok⟩ := issue_encOutcomeRead_of_idle hended hread
    have hsame := (hloaded.trans hsent).trans hreadSame
    dsimp only at h
    split at h
    case isTrue =>
      cases h
      exact .inl ⟨rfl, rfl, hsame⟩
    case isFalse hzero =>
      refine .inr ⟨s3, hidle, hok (not_not.1 hzero), hsame, ?_⟩
      split at h
      case isTrue haddr =>
        cases h
        exact .inl ⟨haddr, rfl, rfl⟩
      case isFalse haddr => exact .inr ⟨haddr, h⟩

/-- Settles O58: with address 0 only the sending half runs, and it leaves the receiver alone. -/
theorem broadcastRequestReadsNothing : Obligations.BroadcastRequestReadsNothing := by
  intro polls p q s t result haddr h
  rcases request_cases h with ⟨_, rfl, hsame⟩ | ⟨_, _, _, hsame, ⟨_, rfl, rfl⟩ | ⟨hne, _⟩⟩
  · exact ⟨hsame.1, hsame.2, rfl⟩
  · exact ⟨hsame.1, hsame.2, rfl⟩
  · exact absurd haddr hne

/-- Settles O59: true comes after an encode that ended `Ok`, and for an address other than 0 with a reply, whose
decode ended `Ok` and left the encoder alone. -/
theorem requestTrueMeansBothOk : Obligations.RequestTrueMeansBothOk := by
  intro polls p q s t h
  rcases request_cases h with ⟨hfalse, _⟩ | ⟨u, hidle, hok, _, ⟨haddr, _, rfl⟩ | ⟨_, hreply⟩⟩
  · cases hfalse
  · exact ⟨hidle, hok, absurd haddr⟩
  · obtain ⟨⟨_, hbusy, houtcome, _⟩, hdecoded⟩ := requestReply_true hreply
    exact ⟨hbusy.trans hidle, houtcome.trans hok, fun _ => hdecoded⟩

end Sys2Proof.Machine
end

section
/-! What a command leaves alone: at the ports it only responds (R56), and during an operation it writes no register
but `CRC_ACC` (R62, R269). -/

namespace Sys2Proof.Machine

/-- `t` is `s` but for `CRC_ACC` and the responses given. -/
abbrev OnlyAccumulates (s t : State) : Prop := ∃ acc rs, t = { s with crcAcc := acc, ports.responses := rs }

theorem command_sameLine {i : Instr} {s t : State} (hi : i.isCommand = true) (h : exec i s = .next t) :
    SameLine s t := by
  rcases command_cases hi h with ⟨_, _, _, rfl⟩ | ⟨_, _, _, rfl⟩ | ⟨_, _, u, rfl, hu⟩
  · exact ⟨rfl, rfl, rfl, rfl, rfl⟩
  · exact ⟨rfl, rfl, rfl, rfl, rfl⟩
  · rcases hu with ⟨_, _, rfl⟩ | ⟨_, _, rfl⟩ | ⟨_, _, _, rfl⟩ | ⟨_, _, _, _, rfl⟩ | ⟨_, _, rfl⟩ | ⟨_, rfl⟩ <;>
      exact ⟨rfl, rfl, rfl, rfl, rfl⟩

theorem commandStep_sameLine {w : CmdWord} {s t : State} (h : commandStep w s = .next t) : SameLine s t := by
  rcases isCommand_commandStep h with ⟨_, _, rfl⟩ | ⟨_, _, hi, h⟩
  · exact ⟨rfl, rfl, rfl, rfl, rfl⟩
  · exact command_sameLine hi h

theorem command_onlyAccumulates_of_busy {i : Instr} {s t : State} (hi : i.isCommand = true)
    (hb : s.anyBusy = true) (h : exec i s = .next t) : OnlyAccumulates s t := by
  rcases command_cases hi h with ⟨_, _, _, rfl⟩ | ⟨_, _, _, rfl⟩ | ⟨henc, hdec, _⟩
  · exact ⟨_, _, rfl⟩
  · exact ⟨_, _, rfl⟩
  · exact absurd hb (ne_true_of_eq_false (anyBusy_of_idle henc hdec))

theorem commandStep_onlyAccumulates_of_busy {w : CmdWord} {s t : State} (hb : s.anyBusy = true)
    (h : commandStep w s = .next t) : OnlyAccumulates s t := by
  rcases isCommand_commandStep h with ⟨_, _, rfl⟩ | ⟨_, _, hi, h⟩
  · exact ⟨_, _, rfl⟩
  · exact command_onlyAccumulates_of_busy hi hb h

theorem OnlyAccumulates.sameOperations {s t : State} (h : OnlyAccumulates s t) :
    SameEncoder s t ∧ SameDecoder s t ∧ SamePacket s t := by
  obtain ⟨_, _, rfl⟩ := h
  exact ⟨.refl s, (SameReceiver.refl s).2, rfl, rfl, rfl, fun _ => rfl⟩

theorem commandStep_sameOperations_of_busy {w : CmdWord} {s t : State} (hb : s.encBusy = true ∨ s.decBusy = true)
    (h : commandStep w s = .next t) : SameEncoder s t ∧ SameDecoder s t ∧ SamePacket s t :=
  (commandStep_onlyAccumulates_of_busy ((anyBusy_eq_true s).2 hb) h).sameOperations

/-- Settles O57: with either flag set a command that would write more than `CRC_ACC` is refused, so the encoder, the
decoder and the packet stay. -/
theorem noCommandEndsOperation : Obligations.NoCommandEndsOperation := by
  intro w s t h
  refine ⟨fun hb => ?_, fun hb => ?_, commandStep_sameLine h⟩
  · obtain ⟨henc, _, hpkt⟩ := commandStep_sameOperations_of_busy (.inl hb) h
    have ⟨_, hbusy, _⟩ := henc
    exact ⟨hbusy.trans hb, henc, hpkt⟩
  · obtain ⟨_, hdec, hpkt⟩ := commandStep_sameOperations_of_busy (.inr hb) h
    have ⟨_, hbusy, _⟩ := hdec
    exact ⟨hbusy.trans hb, hdec, hpkt⟩

end Sys2Proof.Machine
end

section
/-! The end of a run (R306): with no command left and neither operation in flight, every turn but the reset's
passes (R43 to R45). -/

namespace Sys2Proof.Machine

theorem hostTurn_of_noCommand {s : State} (h : s.ports.commands = []) : hostTurn s = .next s := by
  simp only [hostTurn, h]

theorem turn_passes {a : Agent} {s : State} (hcommands : s.ports.commands = []) (henc : s.encBusy = false)
    (hdec : s.decBusy = false) (ha : a ≠ .reset) : turn a s = .next s := by
  cases a with
  | host => exact hostTurn_of_noCommand hcommands
  | encoder => exact encoderTurn_of_idle henc
  | decoder => exact decoderTurn_of_idle hdec
  | reset => exact absurd rfl ha

/-- Settles O60: the next turn is not the reset's, so it passes, and the step only takes it from the turns left, which
are not observed. -/
theorem endedRunStaysAsObserved : Obligations.EndedRunStaysAsObserved := by
  rintro s t ⟨hcommands, henc, hdec, hreset⟩ h
  rcases step_cases h with ⟨_, rfl⟩ | ⟨a, as, hturns, h⟩
  · exact ⟨⟨hcommands, henc, hdec, hreset⟩, rfl⟩
  · rw [hturns, List.mem_cons, not_or] at hreset
    obtain ⟨hne, hrest⟩ := hreset
    have hpass : turn a { s with ports.turns := as } = .next { s with ports.turns := as } :=
      turn_passes hcommands henc hdec (Ne.symm hne)
    obtain rfl : { s with ports.turns := as } = t := Host.Outcome.next.inj (hpass.symm.trans h)
    exact ⟨⟨hcommands, henc, hdec, hrest⟩, observation_of_inputs s as _ _ _⟩

end Sys2Proof.Machine
end
